-- ==== Sys2Proof/Word.lean ====
section
/-! DEFINITION. The word type of LTPNL-CORE (R13: every value is an unsigned 32-bit word, bit 0 least significant, R12)
and the types of its two register files (R40 and R42). -/

namespace Sys2Proof

/-- A `u32` (R13). -/
abbrev Word := BitVec 32

/-- One byte lane of a register on a byte-addressed bus (R55). -/
abbrev Byte := BitVec 8

/-- A grid row number 0..23; its `+` and `-` are modulo 24, as R15 asks of circular rows. -/
abbrev RowIndex := Fin 24

/-- A column number 0..31; its `+` and `-` are modulo 32 (R15). -/
abbrev ColIndex := Fin 32

/-- A PRNG slot number 0..15; its `+` is modulo 16 (R15, R131). -/
abbrev SlotIndex := BitVec 4

/-- Twenty-four rows of 32 cells (R40); also the shape of the scratch row set (R41). -/
abbrev Grid := Vector Word 24

/-- The sixteen words of the WELL512 state (R42). -/
abbrev PrngWords := Vector Word 16

end Sys2Proof
end

