-- ==== Sys2Proof/Machine/Error.lean ====
section
/-! DEFINITION. The error codes of the block (R166). -/

namespace Sys2Proof

/-- The errors a command or a register write can record (R166). Code 0, NONE, is the absence of one. -/
inductive CmdError where
  | busy
  | illegalOp
  | reservedField
  | badRow
  | seedState
  | unseeded
deriving DecidableEq, Repr

/-- The value `STATUS.ERRCODE` takes for each error (R166). -/
def CmdError.code : CmdError → BitVec 4
  | .busy => 1
  | .illegalOp => 2
  | .reservedField => 3
  | .badRow => 4
  | .seedState => 5
  | .unseeded => 6

end Sys2Proof
end

