-- ==== Sys2Proof/Syntax.lean ====
section
/-! DEFINITION. The commands of LTPNL-CORE, one constructor per row of spec/opcode_table.json (R75). The data operands are
not here: a command takes them from ARG0..ARG2 (R74). -/

namespace Sys2Proof

/-- A command. `row` is the 5-bit ROW field (R72): a grid row for GRID_RD and GRID_WR, a slot for PRNG_RD and PRNG_WR. -/
inductive Instr where
  | nop
  | rowcalc
  | evolve
  | update
  | trigger
  | gridRd (row : BitVec 5)
  | gridWr (row : BitVec 5)
  | prngNext
  | prngRd (row : BitVec 5)
  | prngWr (row : BitVec 5)
  | prngIdx
  | seedStart
  | entSample
deriving DecidableEq, Repr

end Sys2Proof
end

