-- ==== Sys2Proof/WellFormed.lean ====
section
/-! DEFINITION. Which commands are legal: the range check on ROW (R72). -/

namespace Sys2Proof

/-- R72: a grid row is 0..23 and a PRNG slot 0..15; no other command has a field to check. -/
def Instr.wellFormed : Instr → Bool
  | .nop => true
  | .rowcalc => true
  | .evolve => true
  | .update => true
  | .trigger => true
  | .gridRd row => decide (row.toNat < 24)
  | .gridWr row => decide (row.toNat < 24)
  | .prngNext => true
  | .prngRd row => decide (row.toNat < 16)
  | .prngWr row => decide (row.toNat < 16)
  | .prngIdx => true
  | .seedStart => true
  | .entSample => true

end Sys2Proof
end

