-- ==== Sys2Proof/Decode.lean ====
section
/-! DEFINITION. Decoding a command word (R70 to R78) and, after it, encoding a command. -/

namespace Sys2Proof

/-- `OP = cmd[3:0]` (R71). -/
def opField (cmd : Word) : BitVec 4 := cmd.extractLsb' 0 4

/-- `ROW = cmd[8:4]` (R72). -/
def rowField (cmd : Word) : BitVec 5 := cmd.extractLsb' 4 5

/-- `RSV = cmd[31:9]` (R73). -/
def rsvField (cmd : Word) : BitVec 23 := cmd.extractLsb' 9 23

/-- The opcode map (R75). OP 0xD, 0xE and 0xF are reserved and select nothing (R71, R77). -/
def operation (op : BitVec 4) (row : BitVec 5) : Option Instr :=
  match op.toNat with
  | 0x0 => some .nop
  | 0x1 => some .rowcalc
  | 0x2 => some .evolve
  | 0x3 => some .update
  | 0x4 => some .trigger
  | 0x5 => some (.gridRd row)
  | 0x6 => some (.gridWr row)
  | 0x7 => some .prngNext
  | 0x8 => some (.prngRd row)
  | 0x9 => some (.prngWr row)
  | 0xA => some .prngIdx
  | 0xB => some .seedStart
  | 0xC => some .entSample
  | _ => none

/-- The four commands that take a ROW (R72, R78); for every other one ROW must be 0. -/
def Instr.takesRow : Instr → Bool
  | .nop => false
  | .rowcalc => false
  | .evolve => false
  | .update => false
  | .trigger => false
  | .gridRd _ => true
  | .gridWr _ => true
  | .prngNext => false
  | .prngRd _ => true
  | .prngWr _ => true
  | .prngIdx => false
  | .seedStart => false
  | .entSample => false

/-- `decode` of R78, total on all 2^32 words. The checks stand in the rule's order, which fixes the one error that a word
with several faults reports (R167): ILLEGAL_OP, then RESERVED_FIELD, then BAD_ROW. -/
def decode (cmd : Word) : Except CmdError Instr :=
  match operation (opField cmd) (rowField cmd) with
  | none => .error .illegalOp
  | some i =>
    if rsvField cmd ≠ 0 then .error .reservedField
    else if i.takesRow = false ∧ rowField cmd ≠ 0 then .error .reservedField
    else if i.wellFormed = false then .error .badRow
    else .ok i

/-- The decoder on a word as spec/opcode_table.json numbers its bits: a command is one 32-bit word, whose bit 0 is the
table's bit 0 (R70), so nothing has to be laid out in another order. -/
def decodeTableWord (nbits w : Nat) : Option Instr :=
  match decode (BitVec.ofNat 32 (w % 2 ^ nbits)) with
  | .ok i => some i
  | .error _ => none

/-! The encoder, from the same tables. -/

/-- `OP(M)` (R75). -/
def Instr.op : Instr → BitVec 4
  | .nop => 0x0
  | .rowcalc => 0x1
  | .evolve => 0x2
  | .update => 0x3
  | .trigger => 0x4
  | .gridRd _ => 0x5
  | .gridWr _ => 0x6
  | .prngNext => 0x7
  | .prngRd _ => 0x8
  | .prngWr _ => 0x9
  | .prngIdx => 0xA
  | .seedStart => 0xB
  | .entSample => 0xC

/-- The ROW a command carries; 0 for a command that takes none (R72). -/
def Instr.rowOf : Instr → BitVec 5
  | .nop => 0
  | .rowcalc => 0
  | .evolve => 0
  | .update => 0
  | .trigger => 0
  | .gridRd row => row
  | .gridWr row => row
  | .prngNext => 0
  | .prngRd row => row
  | .prngWr row => row
  | .prngIdx => 0
  | .seedStart => 0
  | .entSample => 0

/-- `enc(M, n) = (n << 4) | OP(M)` (R80). -/
def encode (i : Instr) : Word := (i.rowOf.setWidth 32 <<< 4) ||| i.op.setWidth 32

/-- One row of the opcode map as R75 prints it: a word matches it when `(word & mask) = match`. -/
structure OpcodeRow where
  matchWord : Word
  mask : Word
deriving DecidableEq, Repr

/-- R75: `(word & mask) = match`. -/
def OpcodeRow.matches (r : OpcodeRow) (w : Word) : Bool := decide (w &&& r.mask = r.matchWord)

/-- The row of the opcode map that lists a command (R75, spec/opcode_table.json). -/
def Instr.opcodeRow : Instr → OpcodeRow
  | .nop => { matchWord := 0x00000000, mask := 0xFFFFFFFF }
  | .rowcalc => { matchWord := 0x00000001, mask := 0xFFFFFFFF }
  | .evolve => { matchWord := 0x00000002, mask := 0xFFFFFFFF }
  | .update => { matchWord := 0x00000003, mask := 0xFFFFFFFF }
  | .trigger => { matchWord := 0x00000004, mask := 0xFFFFFFFF }
  | .gridRd _ => { matchWord := 0x00000005, mask := 0xFFFFFE0F }
  | .gridWr _ => { matchWord := 0x00000006, mask := 0xFFFFFE0F }
  | .prngNext => { matchWord := 0x00000007, mask := 0xFFFFFFFF }
  | .prngRd _ => { matchWord := 0x00000008, mask := 0xFFFFFE0F }
  | .prngWr _ => { matchWord := 0x00000009, mask := 0xFFFFFE0F }
  | .prngIdx => { matchWord := 0x0000000A, mask := 0xFFFFFFFF }
  | .seedStart => { matchWord := 0x0000000B, mask := 0xFFFFFFFF }
  | .entSample => { matchWord := 0x0000000C, mask := 0xFFFFFFFF }

end Sys2Proof
end

