-- ==== Sys2Proof/Config.lean ====
section
/-! DEFINITION. The parameters of LTPNL-CORE that R11 leaves OPEN, and the values that a read draws while a command is in
flight. `MAXCOUNT` is plain data, so a model of any legal block is one `Config`; `CMD_LATENCY` and the drawn values have no
body, so nothing can be proved of them. -/

namespace Sys2Proof

/-- What one LTPNL-CORE fixes for itself (R11, R19). -/
structure Config where
  /-- `MAXCOUNT`, the energy reload value: OPEN, legal 1..65535 (R11, U4). -/
  maxCount : BitVec 16
deriving DecidableEq, Repr

/-- The legal range of `MAXCOUNT` (R11): 1..65535, so only 0 is excluded. -/
def Config.legal (c : Config) : Bool := decide (c.maxCount ≠ 0)

/-- The default of R11, the value every vector of 95_test_vectors.md assumes. DESIGN CHOICE (log 6): `State.reset` takes it. -/
def Config.default : Config := { maxCount := 8192 }

/-- `CMD_LATENCY - 1` of the command accepted at draw `n`: the number of `CLK` cycles beyond the first until `BUSY` is 0
again (R199, U5: any finite number, and it may differ between commands and between executions). A free value (log 3). -/
opaque Config.cmdLatency : Nat → Nat

/-- What a host read of a register other than STATUS returns while `BUSY = 1`, at draw `n` (R60, U1). A free value (log 5). -/
opaque Config.busyRead : Nat → Word

/-- What the render port shows while `BUSY = 1`, at draw `n` (R52, U2). A free value (log 5). -/
opaque Config.busyRender : Nat → Word

end Sys2Proof
end

