-- ==== Sys2Proof/Machine/State.lean ====
section
/-! DEFINITION. The state of LTPNL-CORE, one field per row of the table of R20, with the model's own fields after them: what
the outside world does next, and what the ports last showed. -/

namespace Sys2Proof.Machine

/-- `SEED_STATE` (R28). DEDUCED (log 18): the value 3 "never occurs", so it has no name here. -/
inductive SeedState where
  | idle
  | active
  | done
deriving DecidableEq, Repr

/-- A command in flight (R45 item 2): the word and the operands as they were accepted (R85), and how many `CLK` cycles are
left until `BUSY` is 0 (R199). -/
structure InFlight where
  word : Word
  arg0 : Word
  arg1 : Word
  arg2 : Word
  cyclesLeft : Nat
deriving DecidableEq, Repr

/-- What the outside world can do to the block (R50, R53): the host's accesses to the register port, with the byte-bus
forms of R55 and R56, the rendering sink's read, a `CLK` cycle and `RST`. `poll` is the host's wait for `BUSY = 0` (R80). -/
inductive HostAction where
  /-- `MemWrite(index, 4, value)` (R58). -/
  | write (index : BitVec 4) (value : Word)
  /-- `MemRead(index, 4)` (R59). -/
  | read (index : BitVec 4)
  /-- The render port with `rp_row = row` (R52). -/
  | render (row : BitVec 5)
  /-- A write on a byte-addressed bus, at a byte offset from the port's base: the bytes written, lowest address first. -/
  | busWrite (offset : BitVec 6) (bytes : List Byte)
  /-- A read of `size` bytes on a byte-addressed bus, at a byte offset from the port's base. -/
  | busRead (offset : BitVec 6) (size : Nat)
  /-- `POLL` (R80): read STATUS until bit 0 reads 0. -/
  | poll
  /-- One cycle of `CLK` with no access (R53, R199). -/
  | clk
  /-- `RST` is asserted (R185). -/
  | rst
deriving DecidableEq, Repr

/-- Why the machine could stop with a fault. There is no constructor, because there is no such fault: LTPNL-CORE raises no
trap (R165), every command completes (R92, R200) and an error is recorded in STATUS (R168). -/
inductive Fault where
deriving DecidableEq, Repr

/-- Why a step has no meaning. -/
inductive Refusal where
  /-- An arm of `exec` whose command has no meaning yet. Raised by no arm: every command is modelled. Safe. -/
  | notModelled (mnemonic : String)
  /-- Raised by an access of other than 4 bytes on a byte-addressed bus: R56 has the model refuse it (U3). Safe. -/
  | subWordAccess (offset : BitVec 6) (size : Nat)
  /-- Raised by a 4-byte access at an offset that is no multiple of 4: R56 has the model refuse it (U3). Safe. -/
  | misalignedAccess (offset : BitVec 6)
deriving DecidableEq, Repr

/-- The state of the block (R20), then the model's own fields. -/
structure State where
  /-- `G[0..23]` (R40): bit i of row r is the cell at row r, column i. -/
  grid : Grid
  /-- `S[0..23]`, the scratch rows (R41): hidden. -/
  scratch : Grid
  /-- `ENERGY` (R34). -/
  energy : BitVec 16
  /-- `HIST0`, the newest UPDATE checksum (R35). -/
  hist0 : Word
  /-- `HIST1` (R35). -/
  hist1 : Word
  /-- `HIST2` (R35). -/
  hist2 : Word
  /-- `STATUS.STAGNANT` (R29). -/
  stagnant : Bool
  /-- `PS[0..15]` (R42, R130). -/
  ps : PrngWords
  /-- `IDX` (R36, R131). -/
  idx : SlotIndex
  /-- `STATUS.SEEDED` (R27). -/
  seeded : Bool
  /-- `STATUS.SEED_STATE` (R28). -/
  seedState : SeedState
  /-- `STATUS.MODE`: true is raw (R31, R146). -/
  mode : Bool
  /-- `ACC`, the seed word being assembled (R37). -/
  acc : Word
  /-- `BITCNT` (R31). -/
  bitcnt : BitVec 5
  /-- `WORDCNT` (R31). -/
  wordcnt : BitVec 5
  /-- `PAIR_PHASE` (R31, R150). -/
  pairPhase : Bool
  /-- `PAIR_FIRST` (R31, R150). -/
  pairFirst : Bool
  /-- `LAST`, the last entropy sample (R39). -/
  last : Word
  /-- `LAST_VALID` (R31, R149). -/
  lastValid : Bool
  /-- `ENT_COUNT` (R38). -/
  entCount : Word
  /-- `ARG0` (R22). -/
  arg0 : Word
  /-- `ARG1` (R22). -/
  arg1 : Word
  /-- `ARG2` (R22). -/
  arg2 : Word
  /-- `RESULT` (R23). -/
  result : Word
  /-- `CTRL.RAW` (R32). `CTRL.RULE` is hardwired to 0 (R33) and needs no field. -/
  raw : Bool
  /-- `STATUS.ERR` (R30). -/
  err : Bool
  /-- `STATUS.ERRCODE` (R30). -/
  errcode : BitVec 4
  /-- `BUSY` with what R45 says is hidden behind it: a command is in flight, or none is (R26). -/
  inFlight : Option InFlight
  /-- The model's own: the parameters of this block (R19). -/
  cfg : Config
  /-- The model's own: what the outside world does next, oldest first (log 1). -/
  bus : List HostAction
  /-- The model's own: `rdata`, the value the last register-port read returned (R53). -/
  rdata : Word
  /-- The model's own: `rp_data`, the value the last render-port read returned (R52). -/
  rpData : Word
  /-- The model's own: how many free values have been drawn (log 5). -/
  draws : Nat
deriving DecidableEq, Repr

/-- `STATUS.BUSY` (R26): 1 while a command is in flight. -/
def State.busy (s : State) : Bool := s.inFlight.isSome

/-- The block after `RST` (R185, and the reset column of R20), for the parameters `c`. The model's own fields after it are
DESIGN CHOICE (log 7): nothing waits on the bus, no port has shown anything, nothing has been drawn. -/
def State.resetWith (c : Config) : State where
  grid := Vector.replicate 24 0
  scratch := Vector.replicate 24 0
  energy := c.maxCount
  hist0 := 0
  hist1 := 0
  hist2 := 0
  stagnant := false
  ps := Vector.replicate 16 0
  idx := 0
  seeded := false
  seedState := .idle
  mode := false
  acc := 0
  bitcnt := 0
  wordcnt := 0
  pairPhase := false
  pairFirst := false
  last := 0
  lastValid := false
  entCount := 0
  arg0 := 0
  arg1 := 0
  arg2 := 0
  result := 0
  raw := false
  err := false
  errcode := 0
  inFlight := none
  cfg := c
  bus := []
  rdata := 0
  rpData := 0
  draws := 0

/-- The machine right after reset, for the default `MAXCOUNT` of R11. DESIGN CHOICE (log 6): a claim about every legal
block is one about `State.resetWith`. -/
def State.reset : State := State.resetWith Config.default

end Sys2Proof.Machine
end

