-- ==== Sys2Proof/Machine/Ops.lean ====
section
/-! DEFINITION. The named operations over the block's state: recording an error, accepting a command and letting it
finish, rows and slots, byte lanes. -/

namespace Sys2Proof.Machine

/-! Errors. The block has no trap, no handler and no saved state (R165, R173): this is all that an error does. -/

/-- `raise CmdError(code)` (R168): the first error since the last clear is kept, a later one records nothing new. -/
def State.raise (s : State) (e : CmdError) : State :=
  if s.err then s else { s with err := true, errcode := e.code }

/-- The W1C write of STATUS bit 5 (R30, R169): the only undoing of `raise` but reset. -/
def State.clearError (s : State) : State := { s with err := false, errcode := 0 }

/-! A command in flight. -/

/-- The acceptance of a CMD write (R85): `BUSY <- 1` and the snapshot of the operands. `CMD_LATENCY` is drawn here (R199). -/
def State.accept (s : State) (cmd : Word) : State :=
  { s with
    inFlight := some { word := cmd, arg0 := s.arg0, arg1 := s.arg1, arg2 := s.arg2,
                       cyclesLeft := 1 + Config.cmdLatency s.draws }
    draws := s.draws + 1 }

/-- `BUSY <- 0` (R85): nothing of the command is left but its effects. -/
def State.complete (s : State) : State := { s with inFlight := none }

/-- What is left of a command in flight after one `CLK` cycle: none of it when this was its last one (R199). -/
def InFlight.afterCycle (f : InFlight) : Option InFlight :=
  if f.cyclesLeft ≤ 1 then none else some { f with cyclesLeft := f.cyclesLeft - 1 }

/-- One cycle of `CLK`: a command in flight comes one cycle nearer to its end, and an idle block does nothing (R187). -/
def State.clock (s : State) : State := { s with inFlight := s.inFlight.bind InFlight.afterCycle }

/-- `RST` (R185, R186): the block's state is that of reset, whatever the command in flight had done. The outside world's
side of the ports is no state of the block and stays (log 8). -/
def State.resetPin (s : State) : State :=
  { State.resetWith s.cfg with bus := s.bus, rdata := s.rdata, rpData := s.rpData, draws := s.draws }

/-! Rows and slots. -/

/-- `G[r] <- v` (R40). -/
def State.setRow (s : State) (r : RowIndex) (v : Word) : State := { s with grid := s.grid.set r v }

/-- `RESULT <- v` (R23). -/
def State.setResult (s : State) (v : Word) : State := { s with result := v }

/-- `PS[i]` (R42). The slot index has 4 bits, so it is always in range. -/
def slot (ps : PrngWords) (i : SlotIndex) : Word := ps[i.toNat]

/-- `PS` after `PS[i] <- v`. -/
def setSlot (ps : PrngWords) (i : SlotIndex) (v : Word) : PrngWords := ps.set i.toNat v

/-! The byte lanes of R55, on a byte-addressed bus. -/

/-- The word whose lane k carries bits 8k+7..8k (R55: little-endian, not switchable). -/
def wordOfLanes (b0 b1 b2 b3 : Byte) : Word := b3 ++ b2 ++ b1 ++ b0

/-- Lane k of a register, k = 0..3 (R55). -/
def lane (w : Word) (k : Nat) : Byte := w.extractLsb' (8 * k) 8

end Sys2Proof.Machine
end

