-- ==== Sys2Proof/Machine/Operands.lean ====
section
/-! DEFINITION. The operands of a command (R74): ARG0, ARG1 and ARG2 as they were accepted, a grid row and a PRNG slot from
the ROW field. -/

namespace Sys2Proof.Machine

/-- `ARG0` in a command's pseudocode: the snapshot's value (R86). With no command in flight it is the register itself, which
is what a snapshot taken now would hold (log 10). -/
def State.operand0 (s : State) : Word :=
  match s.inFlight with
  | some f => f.arg0
  | none => s.arg0

/-- `ARG1` in a command's pseudocode, as `operand0` (R86). -/
def State.operand1 (s : State) : Word :=
  match s.inFlight with
  | some f => f.arg1
  | none => s.arg1

/-- `ARG2` in a command's pseudocode, as `operand0` (R86). -/
def State.operand2 (s : State) : Word :=
  match s.inFlight with
  | some f => f.arg2
  | none => s.arg2

/-- ROW as a grid row: unscaled, not modulo 24, and none at 24 and above, which is BAD_ROW (R72). -/
def rowOperand (row : BitVec 5) : Option RowIndex :=
  if h : row.toNat < 24 then some ⟨row.toNat, h⟩ else none

/-- ROW as a PRNG slot: none at 16 and above, which is BAD_ROW (R72). -/
def slotOperand (row : BitVec 5) : Option SlotIndex :=
  if row.toNat < 16 then some (row.setWidth 4) else none

end Sys2Proof.Machine
end

