-- ==== Sys2Proof/Machine/Automaton.lean ====
section
/-! DEFINITION. The cellular-automaton engine: the row update (R95 to R98), the checksum (R101, R102), a generation (R103),
and the commands ROWCALC, EVOLVE, GRID_RD and GRID_WR. -/

namespace Sys2Proof.Machine

/-! The row update function. -/

/-- The population lookup table `POP3` (R95). -/
def pop3 (g : BitVec 3) : Nat := #v[0, 1, 1, 2, 1, 2, 2, 3][g.toNat]

/-- `group3(w, i)` (R96): the cells at columns i+1, i and i-1, modulo 32. -/
def group3 (w : Word) (i : ColIndex) : BitVec 3 :=
  BitVec.ofBool (w.getLsbD (i + 1 : ColIndex).val) ++ BitVec.ofBool (w.getLsbD i.val)
    ++ BitVec.ofBool (w.getLsbD (i - 1 : ColIndex).val)

/-- The live cells of the 3x3 block centred on column i of `self`, the centre among them (R97). -/
def total (above self below : Word) (i : ColIndex) : Nat :=
  pop3 (group3 above i) + pop3 (group3 self i) + pop3 (group3 below i)

/-- The next state of column i (R97). -/
def nextCell (above self below : Word) (i : ColIndex) : Bool :=
  if total above self below i = 3 then true
  else if total above self below i = 4 then self.getLsbD i.val
  else false

/-- `next_row(above, self, below)` (R98): bit i is the next state of column i. -/
def nextRow (above self below : Word) : Word := BitVec.ofFnLE (nextCell above self below)

/-! The checksum. -/

/-- `n` steps of the CRC register, the loop of `crc_word` (R101). -/
def crcSteps : Nat → Word → Word
  | 0, c => c
  | n + 1, c => if c.getLsbD 31 then crcSteps n ((c <<< 1) ^^^ 0x04C11DB7) else crcSteps n (c <<< 1)

/-- `crc_word(c, w)` (R101): the word is XORed in, then the register steps 32 times. -/
def crcWord (c w : Word) : Word := crcSteps 32 (c ^^^ w)

/-- `checksum(rows)` (R101): the rows in order 0..23, from a register initialised to 0xFFFFFFFF each time (R102). -/
def checksum (rows : Grid) : Word := rows.toList.foldl crcWord 0xFFFFFFFF

/-! The generation. -/

/-- The grid one generation after `old`: row r from rows r-1, r and r+1 of `old`, modulo 24 (R103). -/
def nextGrid (old : Grid) : Grid := Vector.ofFn fun r : RowIndex => nextRow old[(r - 1 : RowIndex)] old[r] old[(r + 1 : RowIndex)]

/-- `generation()` without its value (R103): the previous generation is kept in the scratch rows. The value it returns is
`checksum` of the new grid. -/
def State.generation (s : State) : State := { s with scratch := s.grid, grid := nextGrid s.grid }

/-! The commands. -/

/-- ROWCALC (R104): `RESULT <- next_row(ARG0, ARG1, ARG2)`. -/
def execRowcalc (s : State) : Host.Outcome State Fault Refusal :=
  .next (s.setResult (nextRow s.operand0 s.operand1 s.operand2))

/-- EVOLVE (R105): `RESULT <- generation()`. -/
def execEvolve (s : State) : Host.Outcome State Fault Refusal :=
  .next (s.generation.setResult (checksum s.generation.grid))

/-- GRID_RD (R106): `RESULT <- G[row]`. A row of 24 or above is BAD_ROW and the command is discarded (R72, R170). -/
def execGridRd (row : BitVec 5) (s : State) : Host.Outcome State Fault Refusal :=
  match rowOperand row with
  | some r => .next (s.setResult s.grid[r])
  | none => .next (s.raise .badRow)

/-- GRID_WR (R107): `G[row] <- ARG0`. A row of 24 or above is BAD_ROW and the command is discarded (R72, R170). -/
def execGridWr (row : BitVec 5) (s : State) : Host.Outcome State Fault Refusal :=
  match rowOperand row with
  | some r => .next (s.setRow r s.operand0)
  | none => .next (s.raise .badRow)

end Sys2Proof.Machine
end

