-- ==== Sys2Proof/Machine/Command.lean ====
section
/-! DEFINITION. The one command with no unit: NOP. -/

namespace Sys2Proof.Machine

/-- NOP (R88): no state change. -/
def execNop (s : State) : Host.Outcome State Fault Refusal := .next s

end Sys2Proof.Machine
end

