-- ==== Sys2Proof/Machine/Prng.lean ====
section
/-! DEFINITION. The WELL512 generator: the step `next()` (R133) and the commands PRNG_NEXT, PRNG_RD, PRNG_WR and PRNG_IDX. -/

namespace Sys2Proof.Machine

/-- `next()` on `(PS, IDX)` alone (R133, R140): the new words and the new index. The value it returns is the new `PS[IDX]`
(R134). Every name is bound again where the rule assigns it again. -/
def wellStep (ps : PrngWords) (idx : SlotIndex) : PrngWords × SlotIndex :=
  let a := slot ps idx
  let c := slot ps (idx + 13)
  let b := a ^^^ c ^^^ (a <<< 16) ^^^ (c <<< 15)
  let c := slot ps (idx + 9)
  let c := c ^^^ (c >>> 11)
  let a := b ^^^ c
  let ps := setSlot ps idx a
  let d := a ^^^ ((a <<< 5) &&& 0xDA442D24)
  let idx := idx + 15
  let a := slot ps idx
  let ps := setSlot ps idx (a ^^^ b ^^^ d ^^^ (a <<< 2) ^^^ (b <<< 18) ^^^ (c <<< 28))
  (ps, idx)

/-- The state after one `next()` (R133). -/
def State.draw (s : State) : State :=
  { s with ps := (wellStep s.ps s.idx).1, idx := (wellStep s.ps s.idx).2 }

/-- The word the last `next()` returned: `PS[IDX]` (R133, R134). -/
def State.drawn (s : State) : Word := slot s.ps s.idx

/-- UNSEEDED is recorded when `SEEDED = 0`, and the command goes on (R139, R170). -/
def State.checkSeeded (s : State) : State := if s.seeded then s else s.raise .unseeded

/-- The accumulator fields that the end of seeding and PRNG_IDX clear (R138, R153). -/
def State.clearAccumulator (s : State) : State :=
  { s with acc := 0, bitcnt := 0, pairPhase := false, pairFirst := false, last := 0, lastValid := false }

/-- PRNG_NEXT (R135): `RESULT <- next()`, and UNSEEDED recorded first when `SEEDED = 0`. -/
def execPrngNext (s : State) : Host.Outcome State Fault Refusal :=
  .next (s.checkSeeded.draw.setResult s.checkSeeded.draw.drawn)

/-- PRNG_RD (R136): `RESULT <- PS[row]`. A slot of 16 or above is BAD_ROW and the command is discarded (R72, R170). -/
def execPrngRd (row : BitVec 5) (s : State) : Host.Outcome State Fault Refusal :=
  match slotOperand row with
  | some i => .next (s.setResult (slot s.ps i))
  | none => .next (s.raise .badRow)

/-- PRNG_WR (R137): `PS[row] <- ARG0`. A slot of 16 or above is BAD_ROW and the command is discarded (R72, R170). -/
def execPrngWr (row : BitVec 5) (s : State) : Host.Outcome State Fault Refusal :=
  match slotOperand row with
  | some i => .next { s with ps := setSlot s.ps i s.operand0 }
  | none => .next (s.raise .badRow)

/-- PRNG_IDX (R138): `IDX <- ARG0[3:0]`, and seeding ends at once. WORDCNT, MODE and ENT_COUNT are unchanged. -/
def execPrngIdx (s : State) : Host.Outcome State Fault Refusal :=
  .next { s.clearAccumulator with idx := s.operand0.extractLsb' 0 4, seeded := true, seedState := .done }

end Sys2Proof.Machine
end

