-- ==== Sys2Proof/Machine/Lifecycle.lean ====
section
/-! DEFINITION. The lifecycle unit: UPDATE (R116 to R120) and TRIGGER (R121 to R123). -/

namespace Sys2Proof.Machine

/-- The stagnation test on a new checksum and the history as it stood before this UPDATE (R117): equal to the last
generation's, or period 2. -/
def stagnation (c hist0 hist1 hist2 : Word) : Bool := decide (c = hist0 ∨ (c = hist1 ∧ hist0 = hist2))

/-- The energy law (R118): 0 at once on stagnation, else one less, saturating at 0. -/
def energyAfter (stag : Bool) (energy : BitVec 16) : BitVec 16 :=
  if stag then 0 else if energy = 0 then 0 else energy - 1

/-- What UPDATE does after its generation with the checksum `c` (R116): the energy, then the history shift (R120), then
STAGNANT and RESULT. -/
def State.bookkeep (s : State) (c : Word) : State :=
  { s with
    energy := energyAfter (stagnation c s.hist0 s.hist1 s.hist2) s.energy
    hist2 := s.hist1
    hist1 := s.hist0
    hist0 := c
    stagnant := stagnation c s.hist0 s.hist1 s.hist2
    result := c }

/-- UPDATE (R116). -/
def execUpdate (s : State) : Host.Outcome State Fault Refusal :=
  .next (s.generation.bookkeep (checksum s.generation.grid))

/-- The byte of the two draws that row 8+k of the band takes (R121, R122): byte `k mod 4` of w0 for k < 4, of w1 above. -/
def bandByte (w0 w1 : Word) (k : Nat) : Byte := ((if k < 4 then w0 else w1) >>> (8 * (k % 4))).setWidth 8

/-- The grid with the two draws ORed into the band, rows 8..15 and columns 12..19 (R121, R122). -/
def orBand (g : Grid) (w0 w1 : Word) : Grid :=
  Vector.ofFn fun r : RowIndex =>
    if 8 ≤ r.val ∧ r.val ≤ 15 then g[r] ||| ((bandByte w0 w1 (r.val - 8)).setWidth 32 <<< 12) else g[r]

/-- TRIGGER (R121): the energy first, then the draws w0 and w1, then the OR. UNSEEDED is recorded before them when
`SEEDED = 0`. -/
def execTrigger (s : State) : Host.Outcome State Fault Refusal :=
  let s1 := { s.checkSeeded with energy := s.cfg.maxCount }
  let s2 := s1.draw
  let s3 := s2.draw
  .next { s3 with grid := orBand s3.grid s2.drawn s3.drawn }

end Sys2Proof.Machine
end

