-- ==== Sys2Proof/Machine/Seeding.lean ====
section
/-! DEFINITION. The seeding unit: SEED_START (R146) and ENT_SAMPLE (R147), with the raw bit (R148), the debiaser (R150) and
the accumulator (R152, R153). -/

namespace Sys2Proof.Machine

/-- The end of seeding, in `complete_word` after the 16th word (R153). WORDCNT stays 16. -/
def State.finishSeeding (s : State) : State :=
  { s.clearAccumulator with idx := 0, seeded := true, seedState := .done }

/-- `complete_word()` (R153): the word goes to slot WORDCNT. WORDCNT is below 16 in every reachable state in which a word
completes (R46); above it there is no slot to write (log 11). -/
def State.completeWord (s : State) : State :=
  let s1 := { s with
    ps := s.ps.setIfInBounds s.wordcnt.toNat s.acc
    wordcnt := s.wordcnt + 1
    acc := 0
    bitcnt := 0 }
  if s1.wordcnt = 16 then s1.finishSeeding else s1

/-- `emit(b)` (R152): the bit enters at bit 0. The count 32, which BITCNT's 5 bits cannot hold, stands for the completed
word only (log 12). -/
def State.emit (s : State) (b : Bool) : State :=
  let s1 := { s with acc := (s.acc <<< 1) ||| (BitVec.ofBool b).setWidth 32 }
  if s1.bitcnt.toNat + 1 = 32 then s1.completeWord else { s1 with bitcnt := s1.bitcnt + 1 }

/-- The raw bit of a sample and the one before it (R148): bit 0 of their difference modulo 2^32. -/
def rawBit (v last : Word) : Bool := (v - last).getLsbD 0

/-- What a raw bit does (R150, R151): emitted at once in raw mode; else held as the first of a pair, or paired with the held
one, when a tie emits nothing and unequal bits emit the second. -/
def State.takeRawBit (s : State) (r : Bool) : State :=
  if s.mode then s.emit r
  else if s.pairPhase then
    let s1 := { s with pairPhase := false, pairFirst := false }
    if r ≠ s.pairFirst then s1.emit r else s1
  else { s with pairFirst := r, pairPhase := true }

/-- SEED_START (R146): legal in IDLE only, else SEED_STATE is recorded and the command discarded. -/
def execSeedStart (s : State) : Host.Outcome State Fault Refusal :=
  if s.seedState = .idle then
    .next { s.clearAccumulator with mode := s.raw, seedState := .active, wordcnt := 0, entCount := 0 }
  else .next (s.raise .seedState)

/-- ENT_SAMPLE (R147): legal in ACTIVE only, else SEED_STATE is recorded and the command discarded. The first sample only
primes LAST (R149); every later one yields a raw bit. -/
def execEntSample (s : State) : Host.Outcome State Fault Refusal :=
  if s.seedState = .active then
    let v := s.operand0
    let s1 := { s with entCount := s.entCount + 1, last := v, lastValid := true }
    .next (if s.lastValid then s1.takeRawBit (rawBit v s.last) else s1)
  else .next (s.raise .seedState)

end Sys2Proof.Machine
end

