-- ==== Sys2Proof/Machine/Dispatch.lean ====
section
/-! DEFINITION. `execute(d.op, d.row, snapshot)` of R85: the command's own meaning. -/

namespace Sys2Proof.Machine

def exec (i : Instr) (s : State) : Host.Outcome State Fault Refusal :=
  match i with
  | .nop => Sys2Proof.Machine.execNop s
  | .rowcalc => Sys2Proof.Machine.execRowcalc s
  | .evolve => Sys2Proof.Machine.execEvolve s
  | .update => Sys2Proof.Machine.execUpdate s
  | .trigger => Sys2Proof.Machine.execTrigger s
  | .gridRd row => Sys2Proof.Machine.execGridRd row s
  | .gridWr row => Sys2Proof.Machine.execGridWr row s
  | .prngNext => Sys2Proof.Machine.execPrngNext s
  | .prngRd row => Sys2Proof.Machine.execPrngRd row s
  | .prngWr row => Sys2Proof.Machine.execPrngWr row s
  | .prngIdx => Sys2Proof.Machine.execPrngIdx s
  | .seedStart => Sys2Proof.Machine.execSeedStart s
  | .entSample => Sys2Proof.Machine.execEntSample s

end Sys2Proof.Machine
end

