-- ==== Sys2Proof/Machine/Flags.lean ====
section
/-! DEFINITION. STATUS as the host reads it (R25, R59), and the block's outputs that repeat some of it (R53). No command sets
a flag from an arithmetic result (R44): the flags are written in the commands' own meanings, ERR and ERRCODE in
`State.raise`. -/

namespace Sys2Proof.Machine

/-- The two bits of `SEED_STATE` (R28). -/
def SeedState.bits : SeedState → BitVec 2
  | .idle => 0
  | .active => 1
  | .done => 2

/-- STATUS (R25), field by field from bit 31 down; bits 31:25 and 7 are reserved and read 0. -/
def State.status (s : State) : Word :=
  (0 : BitVec 7) ++ BitVec.ofBool s.lastValid ++ BitVec.ofBool s.pairFirst ++ BitVec.ofBool s.pairPhase
    ++ s.wordcnt ++ s.bitcnt ++ s.errcode ++ (0 : BitVec 1) ++ BitVec.ofBool s.mode ++ BitVec.ofBool s.err
    ++ BitVec.ofBool s.stagnant ++ s.seedState.bits ++ BitVec.ofBool s.seeded ++ BitVec.ofBool s.busy

/-- CTRL (R32, R33): bit 0 is RAW, RULE and the reserved bits read 0. -/
def State.ctrl (s : State) : Word := (BitVec.ofBool s.raw).setWidth 32

/-- `energy_o[15:0]` (R53, R119). -/
def State.energyOut (s : State) : BitVec 16 := s.energy

/-- `busy_o` (R53). -/
def State.busyOut (s : State) : Bool := s.busy

/-- `seeded_o` (R53). -/
def State.seededOut (s : State) : Bool := s.seeded

end Sys2Proof.Machine
end

