-- ==== Sys2Proof/Machine/Port.lean ====
section
/-! DEFINITION. The two access paths of the block (R50): issuing a command (R85), the register port (R51, R57 to R60), the
render port (R52), and what each action of the outside world does. -/

namespace Sys2Proof.Machine

/-- The register map (R51, R62). -/
inductive PortReg where
  | cmd
  | arg0
  | arg1
  | arg2
  | result
  | status
  | ctrl
  | energy
  | hist0
  | hist1
  | hist2
  | prngIdx
  | seedAcc
  | entCount
  | seedLast
  | reserved
deriving DecidableEq, Repr

/-- The register at a word index (R51). -/
def portReg (index : BitVec 4) : PortReg :=
  match index.toNat with
  | 0x0 => .cmd
  | 0x1 => .arg0
  | 0x2 => .arg1
  | 0x3 => .arg2
  | 0x4 => .result
  | 0x5 => .status
  | 0x6 => .ctrl
  | 0x7 => .energy
  | 0x8 => .hist0
  | 0x9 => .hist1
  | 0xA => .hist2
  | 0xB => .prngIdx
  | 0xC => .seedAcc
  | 0xD => .entCount
  | 0xE => .seedLast
  | _ => .reserved

/-- `issue(v)` (R85): acceptance, decoding, and the command's own meaning or its error. The effects stand at the acceptance
in the order of accesses (R64; log 2); `BUSY` stays 1 until the latency has passed. -/
def issue (cmd : Word) (s : State) : Host.Outcome State Fault Refusal :=
  match decode cmd with
  | .error e => .next ((s.accept cmd).raise e)
  | .ok i => exec i (s.accept cmd)

/-- `MemWrite(index, 4, v)` (R58, R171). While `BUSY = 1` a write to CMD, ARG0..ARG2 or CTRL is ignored and records BUSY; a
write to STATUS is taken, and one to a read-only or reserved register has no effect and is no error. -/
def portWrite (index : BitVec 4) (v : Word) (s : State) : Host.Outcome State Fault Refusal :=
  match portReg index with
  | .cmd => if s.busy then .next (s.raise .busy) else issue v s
  | .arg0 => .next (if s.busy then s.raise .busy else { s with arg0 := v })
  | .arg1 => .next (if s.busy then s.raise .busy else { s with arg1 := v })
  | .arg2 => .next (if s.busy then s.raise .busy else { s with arg2 := v })
  | .status => .next (if v.getLsbD 5 then s.clearError else s)
  | .ctrl => .next (if s.busy then s.raise .busy else { s with raw := v.getLsbD 0 })
  | .result => .next s
  | .energy => .next s
  | .hist0 => .next s
  | .hist1 => .next s
  | .hist2 => .next s
  | .prngIdx => .next s
  | .seedAcc => .next s
  | .entCount => .next s
  | .seedLast => .next s
  | .reserved => .next s

/-- The value of a register with `BUSY = 0` (R59): a field narrower than 32 bits is zero-extended. -/
def regValue (r : PortReg) (s : State) : Word :=
  match r with
  | .cmd => 0
  | .arg0 => s.arg0
  | .arg1 => s.arg1
  | .arg2 => s.arg2
  | .result => s.result
  | .status => s.status
  | .ctrl => s.ctrl
  | .energy => s.energy.setWidth 32
  | .hist0 => s.hist0
  | .hist1 => s.hist1
  | .hist2 => s.hist2
  | .prngIdx => s.idx.setWidth 32
  | .seedAcc => s.acc
  | .entCount => s.entCount
  | .seedLast => s.last
  | .reserved => 0

/-- `MemRead(index, 4)` (R59): `rdata` shows the register. While `BUSY = 1` only STATUS is exact; any other register shows
a free value (R60, U1). No state of the block changes (R57). -/
def portRead (index : BitVec 4) (s : State) : State :=
  if s.busy = true ∧ portReg index ≠ .status then
    { s with rdata := Config.busyRead s.draws, draws := s.draws + 1 }
  else { s with rdata := regValue (portReg index) s }

/-- A read of the render port (R52): row `rp_row` of the grid, 0 for rows 24..31, a free value while `BUSY = 1` (U2; for
rows 24..31 too, log 9). -/
def renderRead (row : BitVec 5) (s : State) : State :=
  if s.busy then { s with rpData := Config.busyRender s.draws, draws := s.draws + 1 }
  else
    match rowOperand row with
    | some r => { s with rpData := s.grid[r] }
    | none => { s with rpData := 0 }

/-- `POLL` (R80): the reads of STATUS until one shows `BUSY = 0`, taken together. The command in flight ends within them,
after a finite number (R92, R199; log 4), and `rdata` shows the last one. -/
def poll (s : State) : State := { s.complete with rdata := s.complete.status }

/-- Which word access an access on a byte-addressed bus is (R56): one of 4 bytes at a multiple of 4, on the register at a
quarter of the offset; every other one is refused, by name. -/
def busIndex (offset : BitVec 6) (size : Nat) : Except Refusal (BitVec 4) :=
  if size ≠ 4 then .error (.subWordAccess offset size)
  else if offset.toNat % 4 ≠ 0 then .error (.misalignedAccess offset)
  else .ok (offset.extractLsb' 2 4)

/-- A write on a byte-addressed bus: the four bytes in the lanes of R55, as one register-port write. -/
def busWrite (offset : BitVec 6) (bytes : List Byte) (s : State) : Host.Outcome State Fault Refusal :=
  match busIndex offset bytes.length, bytes with
  | .ok index, [b0, b1, b2, b3] => portWrite index (wordOfLanes b0 b1 b2 b3) s
  | .ok _, _ => .refused (.subWordAccess offset bytes.length)
  | .error e, _ => .refused e

/-- A read on a byte-addressed bus, as one register-port read; `lane` gives the bytes of `rdata`. -/
def busRead (offset : BitVec 6) (size : Nat) (s : State) : Host.Outcome State Fault Refusal :=
  match busIndex offset size with
  | .ok index => .next (portRead index s)
  | .error e => .refused e

/-- What one action of the outside world does to the block. -/
def hostAction (a : HostAction) (s : State) : Host.Outcome State Fault Refusal :=
  match a with
  | .write index v => portWrite index v s
  | .read index => .next (portRead index s)
  | .render row => .next (renderRead row s)
  | .busWrite offset bytes => busWrite offset bytes s
  | .busRead offset size => busRead offset size s
  | .poll => .next (poll s)
  | .clk => .next s.clock
  | .rst => .next s.resetPin

end Sys2Proof.Machine
end

