-- ==== Sys2Proof/Machine/Step.lean ====
section
/-! DEFINITION. One step: the next action of the outside world. -/

namespace Sys2Proof.Machine

/-- One step of the machine. LTPNL-CORE has no fetch and does not sequence itself (R21, R68): a step takes the oldest
waiting action of the outside world. With none waiting the block is idle and keeps all its state (R187). -/
def step (s : State) : Host.Outcome State Fault Refusal :=
  match s.bus with
  | [] => .next s
  | a :: rest => hostAction a { s with bus := rest }

/-- `s` with a CMD write of the word next on the bus, and no command in flight, so that the very next step accepts it (R85)
and runs it. -/
def State.withFetchWord (s : State) (nbits w : Nat) : State :=
  { s with inFlight := none, bus := .write 0 (BitVec.ofNat 32 (w % 2 ^ nbits)) :: s.bus }

end Sys2Proof.Machine
end

