-- ==== Sys2Proof/Machine/HostProgram.lean ====
section
/-! DEFINITION. The host-program notation of R80 and R81, as lists of actions of the outside world: the textual level at
which 95_test_vectors.md writes its programs. -/

namespace Sys2Proof.Machine

/-- `index(reg)` (R51). -/
def PortReg.index : PortReg → BitVec 4
  | .cmd => 0x0
  | .arg0 => 0x1
  | .arg1 => 0x2
  | .arg2 => 0x3
  | .result => 0x4
  | .status => 0x5
  | .ctrl => 0x6
  | .energy => 0x7
  | .hist0 => 0x8
  | .hist1 => 0x9
  | .hist2 => 0xA
  | .prngIdx => 0xB
  | .seedAcc => 0xC
  | .entCount => 0xD
  | .seedLast => 0xE
  | .reserved => 0xF

/-- `WR reg, value` (R80). -/
def lineWr (r : PortReg) (v : Word) : List HostAction := [.write r.index v]

/-- `RD reg` (R80). -/
def lineRd (r : PortReg) : List HostAction := [.read r.index]

/-- `POLL` (R80). -/
def linePoll : List HostAction := [.poll]

/-- `CMD MNEMONIC` and `CMD MNEMONIC n` (R80). -/
def lineCmd (i : Instr) : List HostAction := lineWr .cmd (encode i) ++ linePoll

/-- `REPEAT n` (R80). -/
def repeatLines (n : Nat) (p : List HostAction) : List HostAction := (List.replicate n p).flatten

/-- `FOR k = a..b` (R80): both ends are taken. -/
def forLines (a b : Nat) (p : Nat → List HostAction) : List HostAction := (List.range' a (b + 1 - a)).flatMap p

/-- `ROWCALC a, s, b` (R81). -/
def pseudoRowcalc (a s b : Word) : List HostAction :=
  lineWr .arg0 a ++ lineWr .arg1 s ++ lineWr .arg2 b ++ lineCmd .rowcalc ++ lineRd .result

/-- `SETROW r, v` (R81). -/
def pseudoSetRow (r : BitVec 5) (v : Word) : List HostAction := lineWr .arg0 v ++ lineCmd (.gridWr r)

/-- `GETROW r` (R81). -/
def pseudoGetRow (r : BitVec 5) : List HostAction := lineCmd (.gridRd r) ++ lineRd .result

/-- `SETSLOT s, v` (R81). -/
def pseudoSetSlot (i : BitVec 5) (v : Word) : List HostAction := lineWr .arg0 v ++ lineCmd (.prngWr i)

/-- `SETIDX i` (R81). -/
def pseudoSetIdx (i : Word) : List HostAction := lineWr .arg0 i ++ lineCmd .prngIdx

/-- `SAMPLE v` (R81). -/
def pseudoSample (v : Word) : List HostAction := lineWr .arg0 v ++ lineCmd .entSample

/-- `RAND` (R81). -/
def pseudoRand : List HostAction := lineCmd .prngNext ++ lineRd .result

/-- `CLRERR` (R81). -/
def pseudoClrErr : List HostAction := lineWr .status 0x00000020

end Sys2Proof.Machine
end

