-- ==== Sys2Proof/Safety.lean ====
section
/-! DEFINITION. The terms claims are stated in: the invariants of every reachable state (R46), what the next step does at
the port, runs of commands and of samples, the Life rule in its birth and survival form (R99). -/

namespace Sys2Proof.Machine

/-! The invariants. -/

/-- The invariants of every reachable state: those of R46 and R31, the zero accumulator outside seeding (R43, R138), where
the bits of ACC sit (R37), the pair fields in raw mode (R151), and what the model adds (the parameters, the snapshot). The
bounds of IDX, BITCNT and SEED_STATE in R46 hold by the types of the fields. -/
structure State.Inv (s : State) : Prop where
  legal : s.cfg.legal = true
  energyBound : s.energy.toNat ≤ s.cfg.maxCount.toNat
  wordcntBound : s.wordcnt.toNat ≤ 16
  wordcntDone : s.wordcnt = 16 → s.seedState = .done
  seededDone : s.seeded = true ↔ s.seedState = .done
  idleZero : s.seedState = .idle → s.wordcnt = 0 ∧ s.entCount = 0
  inactiveZero : s.seedState ≠ .active →
    s.acc = 0 ∧ s.bitcnt = 0 ∧ s.pairPhase = false ∧ s.pairFirst = false ∧ s.last = 0 ∧ s.lastValid = false
  accBits : s.acc.toNat < 2 ^ s.bitcnt.toNat
  pairHeld : s.pairPhase = false → s.pairFirst = false
  rawNoPair : s.mode = true → s.pairPhase = false
  errNone : s.err = false → s.errcode = 0
  errSome : s.err = true → 1 ≤ s.errcode.toNat ∧ s.errcode.toNat ≤ 6
  latencyLeft : ∀ f, s.inFlight = some f → 1 ≤ f.cyclesLeft
  snapshot : ∀ f, s.inFlight = some f → f.arg0 = s.arg0 ∧ f.arg1 = s.arg1 ∧ f.arg2 = s.arg2

/-- A state that some run from reset of some legal block reaches, whatever the outside world does. -/
inductive Reachable : State → Prop where
  | start (c : Config) (bus : List HostAction) (h : c.legal = true) : Reachable { State.resetWith c with bus := bus }
  | step {s t : State} (h : Reachable s) (hs : Machine.step s = .next t) : Reachable t

/-! What the next step does at the port. -/

/-- The register-port write an action is: a write of the port itself, or one of 4 bytes at a multiple of 4 on a byte bus,
with byte k of the word in lane k (R55, R56). -/
def HostAction.asWrite? : HostAction → Option (BitVec 4 × Word)
  | .write index v => some (index, v)
  | .read _ => none
  | .render _ => none
  | .busWrite offset [b0, b1, b2, b3] =>
    if offset.toNat % 4 = 0 then some (BitVec.ofNat 4 (offset.toNat / 4), b3 ++ b2 ++ b1 ++ b0) else none
  | .busWrite _ _ => none
  | .busRead _ _ => none
  | .poll => none
  | .clk => none
  | .rst => none

/-- The register-port write that the next step makes. -/
def State.nextWrite? (s : State) : Option (BitVec 4 × Word) := s.bus.head?.bind HostAction.asWrite?

/-- The next step accepts the command word `cmd` (R85): a write of it to CMD comes while `BUSY = 0`. -/
def State.Accepts (s : State) (cmd : Word) : Prop := s.busy = false ∧ s.nextWrite? = some (0, cmd)

/-- The next step is a reset (R185). -/
def State.Resets (s : State) : Prop := s.bus.head? = some .rst

/-- The next step clears ERR and ERRCODE by a write to STATUS with bit 5 set (R30). -/
def State.ClearsError (s : State) : Prop := ∃ v, s.nextWrite? = some (5, v) ∧ v.getLsbD 5 = true

/-- The next access is one that R56 has the model refuse. -/
def HostAction.Refused : HostAction → Prop
  | .write _ _ => False
  | .read _ => False
  | .render _ => False
  | .busWrite offset bytes => bytes.length ≠ 4 ∨ offset.toNat % 4 ≠ 0
  | .busRead offset size => size ≠ 4 ∨ offset.toNat % 4 ≠ 0
  | .poll => False
  | .clk => False
  | .rst => False

/-! Runs. -/

/-- Commands one after the other, as their own meanings. -/
def execAll : List Instr → State → Host.Outcome State Fault Refusal
  | [], s => .next s
  | i :: rest, s =>
    match exec i s with
    | .next t => execAll rest t
    | .fault f => .fault f
    | .refused r => .refused r

/-- Samples fed one after the other, each by its own ENT_SAMPLE with the sample in ARG0, the command before it completed
(R188 step 3). -/
def feed : List Word → State → Host.Outcome State Fault Refusal
  | [], s => .next s
  | v :: rest, s =>
    match exec .entSample { s with arg0 := v, inFlight := none } with
    | .next t => feed rest t
    | .fault f => .fault f
    | .refused r => .refused r

/-! The Life rule on the torus, in its birth and survival form, written without the machine's table. -/

/-- The cell at row r, column c (R12, R40). -/
def alive (g : Grid) (r : RowIndex) (c : ColIndex) : Bool := g[r].getLsbD c.val

/-- How many of the eight neighbours of a column of `self` live, columns modulo 32. -/
def rowNeighbours (above self below : Word) (c : ColIndex) : Nat :=
  [above.getLsbD (c - 1 : ColIndex).val, above.getLsbD c.val, above.getLsbD (c + 1 : ColIndex).val,
   self.getLsbD (c - 1 : ColIndex).val, self.getLsbD (c + 1 : ColIndex).val,
   below.getLsbD (c - 1 : ColIndex).val, below.getLsbD c.val, below.getLsbD (c + 1 : ColIndex).val].count true

/-- How many of the eight neighbours of a cell live, rows modulo 24 and columns modulo 32. -/
def liveNeighbours (g : Grid) (r : RowIndex) (c : ColIndex) : Nat :=
  [alive g (r - 1) (c - 1), alive g (r - 1) c, alive g (r - 1) (c + 1),
   alive g r (c - 1), alive g r (c + 1),
   alive g (r + 1) (c - 1), alive g (r + 1) c, alive g (r + 1) (c + 1)].count true

/-- B3/S23 (R99): a dead cell with exactly 3 live neighbours becomes live, a live one with 2 or 3 stays live, every other
cell becomes or stays dead. -/
def lifeRule (self : Bool) (neighbours : Nat) : Bool :=
  match self with
  | false => decide (neighbours = 3)
  | true => decide (neighbours = 2 ∨ neighbours = 3)

/-! The debiaser, as what one sample emits. -/

/-- The raw bit of a sample and the one before it, in the form R148 derives: the exclusive or of their bits 0. -/
def parityBit (v last : Word) : Bool := v.getLsbD 0 != last.getLsbD 0

/-- The bit that an ENT_SAMPLE of `v` in ACTIVE emits, if any (R149, R150, R151). -/
def State.emits? (s : State) (v : Word) : Option Bool :=
  if s.lastValid = false then none
  else if s.mode = true then some (parityBit v s.last)
  else if s.pairPhase = false then none
  else if parityBit v s.last = s.pairFirst then none
  else some (parityBit v s.last)

/-- The 89 legal command words (R76). -/
def legalWords : List Word :=
  ([0x00000000, 0x00000001, 0x00000002, 0x00000003, 0x00000004, 0x00000007, 0x0000000A, 0x0000000B, 0x0000000C] : List Word)
    ++ (List.range 24).map (fun r => 0x00000005 ||| (BitVec.ofNat 32 r <<< 4))
    ++ (List.range 24).map (fun r => 0x00000006 ||| (BitVec.ofNat 32 r <<< 4))
    ++ (List.range 16).map (fun r => 0x00000008 ||| (BitVec.ofNat 32 r <<< 4))
    ++ (List.range 16).map (fun r => 0x00000009 ||| (BitVec.ofNat 32 r <<< 4))

end Sys2Proof.Machine
end

