-- ==== Sys2Proof/Certificates/Slice0/Obligations.lean ====
section
/-! DEFINITION. What is to be proved of the model, one statement each. A statement names the rule of spec/ it formalises;
where it rests on a choice of the model it names the log entry. Unless it says otherwise a statement holds of every state,
those that no run reaches among them. -/

open Sys2Proof Sys2Proof.Machine

/-! Encoding. -/

/-- R82: the worked encodings, each word with the command or the error it stands for. -/
def Obligations.WorkedEncodingsDecode : Prop :=
  decode 0x00000000 = .ok .nop ∧ decode 0x00000002 = .ok .evolve ∧ decode 0x00000003 = .ok .update ∧
  decode 0x000000C6 = .ok (.gridWr 12) ∧ decode 0x00000176 = .ok (.gridWr 23) ∧ decode 0x00000005 = .ok (.gridRd 0) ∧
  decode 0x000000F9 = .ok (.prngWr 15) ∧ decode 0x00000038 = .ok (.prngRd 3) ∧
  decode 0x00000185 = .error .badRow ∧ decode 0x00000109 = .error .badRow ∧
  decode 0x00000013 = .error .reservedField ∧ decode 0x0000000E = .error .illegalOp

/-- Every well-formed command is what its own encoding decodes to, with ROW at every value it admits (R72, R75, R80). -/
def Obligations.DecodeEncodeRoundTrip : Prop :=
  ∀ i : Instr, i.wellFormed = true → decode (encode i) = .ok i

/-- A word that decodes is the encoding of what it decodes to, which is well formed and listed by its own row of the opcode
map: no bit of a legal word is ignored (R73, R75, R76). -/
def Obligations.DecodedWordIsItsEncoding : Prop :=
  ∀ (w : Word) (i : Instr), decode w = .ok i →
    encode i = w ∧ i.wellFormed = true ∧ i.opcodeRow.matches w = true

/-- R76: the legal words are the 89 listed, no two of them equal, and every other word raises exactly one error and does
nothing else but be a command in flight for its latency. -/
def Obligations.LegalWordsAreTheListedEightyNine : Prop :=
  legalWords.length = 89 ∧ legalWords.Nodup ∧
  (∀ w : Word, (∃ i, decode w = .ok i) ↔ w ∈ legalWords) ∧
  (∀ w : Word, w ∉ legalWords → ∃ e, decode w = .error e ∧ ∀ s : State, issue w s = .next ((s.accept w).raise e))

/-- R78: what `decode` answers, with the fields of the word as numbers: OP is the word modulo 16, ROW the next 5 bits, RSV
the rest. The first check that fails names the error. -/
def Obligations.DecodeChecksInOrder : Prop :=
  ∀ w : Word,
    let op := w.toNat % 16
    let row := w.toNat / 16 % 32
    let rsv := w.toNat / 512
    let usesRow := op = 5 ∨ op = 6 ∨ op = 8 ∨ op = 9
    (13 ≤ op → decode w = .error .illegalOp) ∧
    (op < 13 → rsv ≠ 0 → decode w = .error .reservedField) ∧
    (op < 13 → rsv = 0 → ¬ usesRow → row ≠ 0 → decode w = .error .reservedField) ∧
    (rsv = 0 → (op = 5 ∨ op = 6) → 24 ≤ row → decode w = .error .badRow) ∧
    (rsv = 0 → (op = 8 ∨ op = 9) → 16 ≤ row → decode w = .error .badRow) ∧
    (op < 13 → rsv = 0 → (¬ usesRow → row = 0) → ((op = 5 ∨ op = 6) → row < 24) → ((op = 8 ∨ op = 9) → row < 16) →
      ∃ i, decode w = .ok i ∧ i.op.toNat = op ∧ i.rowOf.toNat = row)

/-! The port, the step, `BUSY`. -/

/-- R85: a word written to CMD while `BUSY = 0` that decodes to `i` makes the step run `i` at once, on the state in which
the word and ARG0..ARG2 are the snapshot (log 2). The latency is a free value (log 3). `withFetchWord` places such a write. -/
def Obligations.StepRunsDecodedCommand : Prop :=
  ∀ (s : State) (w : Word) (i : Instr), decode w = .ok i →
    (∀ rest, s.inFlight = none → s.bus = .write 0 w :: rest → step s = exec i { s with
      bus := rest
      inFlight := some { word := w, arg0 := s.arg0, arg1 := s.arg1, arg2 := s.arg2,
                         cyclesLeft := 1 + Config.cmdLatency s.draws }
      draws := s.draws + 1 }) ∧
    (∀ n, n < 2 ^ 32 → BitVec.ofNat 32 n = w → step (s.withFetchWord 32 n) = exec i (s.accept w))

/-- A command that is discarded changes no state other than ERR and ERRCODE (R170), which keep the first code (R168) of
R166. For a word that does not decode, and, as the commands' own discards, SEED_START out of IDLE and ENT_SAMPLE out of
ACTIVE; and UNSEEDED alone does not discard: PRNG_NEXT and TRIGGER still take their next words from the generator. The two
clauses on exec with a row of 24 or a slot of 16 and above speak of terms that the decoder never makes: that they record
BAD_ROW, as the words of R72 do, is the model's deduction (log 13). -/
def Obligations.DiscardedCommandChangesOnlyTheError : Prop :=
  (∀ (s : State) (w : Word) (e : CmdError), decode w = .error e →
    issue w s = .next { s.accept w with err := true, errcode := if s.err then s.errcode else e.code }) ∧
  (∀ s : State, s.seedState ≠ .idle →
    exec .seedStart s = .next { s with err := true, errcode := if s.err then s.errcode else 5 }) ∧
  (∀ s : State, s.seedState ≠ .active →
    exec .entSample s = .next { s with err := true, errcode := if s.err then s.errcode else 5 }) ∧
  (∀ (s : State) (row : BitVec 5), 24 ≤ row.toNat → ∀ i, i = Instr.gridRd row ∨ i = Instr.gridWr row →
    exec i s = .next { s with err := true, errcode := if s.err then s.errcode else 4 }) ∧
  (∀ (s : State) (row : BitVec 5), 16 ≤ row.toNat → ∀ i, i = Instr.prngRd row ∨ i = Instr.prngWr row →
    exec i s = .next { s with err := true, errcode := if s.err then s.errcode else 4 }) ∧
  (∀ s : State, s.seeded = false → ∀ i, i = Instr.prngNext ∨ i = Instr.trigger →
    ∃ t u, exec i s = .next t ∧ exec i { s with seeded := true } = .next u ∧
      t = { u with seeded := false, err := true, errcode := if s.err then s.errcode else 6 })

/-- R169: ERR and ERRCODE are sticky. No command clears them, a later error records nothing new, and only a write to STATUS
with bit 5 set or a reset clears them. -/
def Obligations.ErrorIsSticky : Prop :=
  (∀ (i : Instr) (s t : State), exec i s = .next t → s.err = true → t.err = true ∧ t.errcode = s.errcode) ∧
  (∀ s t : State, step s = .next t → s.err = true → ¬ s.ClearsError → ¬ s.Resets →
    t.err = true ∧ t.errcode = s.errcode) ∧
  (∀ s t : State, step s = .next t → s.ClearsError ∨ s.Resets → t.err = false ∧ t.errcode = 0)

/-- R171: while `BUSY = 1` a write to CMD, ARG0..ARG2 or CTRL is ignored and raises BUSY; a write to STATUS is taken and one
to any other register ignored, neither with an error; and a read never raises one, busy or not. -/
def Obligations.WriteWhileBusyIsIgnored : Prop :=
  ∀ (s : State) (rest : List HostAction),
    (s.busy = true →
      (∀ index v, s.bus = .write index v :: rest → index ∈ ([0, 1, 2, 3, 6] : List (BitVec 4)) →
        step s = .next { s with bus := rest, err := true, errcode := if s.err then s.errcode else 1 }) ∧
      (∀ v, s.bus = .write 5 v :: rest → step s = .next { s with
        bus := rest
        err := s.err && !v.getLsbD 5
        errcode := if v.getLsbD 5 then 0 else s.errcode }) ∧
      (∀ index v, s.bus = .write index v :: rest → index ∉ ([0, 1, 2, 3, 5, 6] : List (BitVec 4)) →
        step s = .next { s with bus := rest })) ∧
    (∀ index, s.bus = .read index :: rest → ∃ t, step s = .next t ∧ t.err = s.err ∧ t.errcode = s.errcode)

/-- R58: what a write of each register does. A write to CMD issues the word, unless `BUSY = 1`. -/
def Obligations.HostWriteTakesItsField : Prop :=
  ∀ (s : State) (rest : List HostAction) (v : Word),
    let refused := { s with bus := rest, err := true, errcode := if s.err then s.errcode else 1 }
    (s.bus = .write 0 v :: rest → step s = if s.busy then .next refused else issue v { s with bus := rest }) ∧
    (s.bus = .write 1 v :: rest → step s = .next (if s.busy then refused else { s with bus := rest, arg0 := v })) ∧
    (s.bus = .write 2 v :: rest → step s = .next (if s.busy then refused else { s with bus := rest, arg1 := v })) ∧
    (s.bus = .write 3 v :: rest → step s = .next (if s.busy then refused else { s with bus := rest, arg2 := v })) ∧
    (s.bus = .write 5 v :: rest → step s = .next { s with
      bus := rest
      err := s.err && !v.getLsbD 5
      errcode := if v.getLsbD 5 then 0 else s.errcode }) ∧
    (s.bus = .write 6 v :: rest →
      step s = .next (if s.busy then refused else { s with bus := rest, raw := v.getLsbD 0 })) ∧
    (∀ index, index ∉ ([0, 1, 2, 3, 5, 6] : List (BitVec 4)) → s.bus = .write index v :: rest →
      step s = .next { s with bus := rest })

/-- R59: what a read of each register returns with `BUSY = 0`. STATUS is said as a sum, each field at its weight. -/
def Obligations.HostReadReturnsTheRegister : Prop :=
  ∀ (s : State) (rest : List HostAction) (index : BitVec 4), s.busy = false → s.bus = .read index :: rest →
    ∃ t, step s = .next t ∧ t = { s with bus := rest, rdata := t.rdata } ∧
      (index = 0x0 ∨ index = 0xF → t.rdata = 0) ∧ (index = 0x1 → t.rdata = s.arg0) ∧ (index = 0x2 → t.rdata = s.arg1) ∧
      (index = 0x3 → t.rdata = s.arg2) ∧ (index = 0x4 → t.rdata = s.result) ∧
      (index = 0x5 → t.rdata.toNat = s.lastValid.toNat * 2 ^ 24 + s.pairFirst.toNat * 2 ^ 23 + s.pairPhase.toNat * 2 ^ 22
        + s.wordcnt.toNat * 2 ^ 17 + s.bitcnt.toNat * 2 ^ 12 + s.errcode.toNat * 2 ^ 8 + s.mode.toNat * 2 ^ 6
        + s.err.toNat * 2 ^ 5 + s.stagnant.toNat * 2 ^ 4
        + (match s.seedState with | .idle => 0 | .active => 1 | .done => 2) * 2 ^ 2 + s.seeded.toNat * 2) ∧
      (index = 0x6 → t.rdata.toNat = s.raw.toNat) ∧ (index = 0x7 → t.rdata.toNat = s.energy.toNat) ∧
      (index = 0x8 → t.rdata = s.hist0) ∧ (index = 0x9 → t.rdata = s.hist1) ∧ (index = 0xA → t.rdata = s.hist2) ∧
      (index = 0xB → t.rdata.toNat = s.idx.toNat) ∧ (index = 0xC → t.rdata = s.acc) ∧
      (index = 0xD → t.rdata = s.entCount) ∧ (index = 0xE → t.rdata = s.last)

/-- A read while `BUSY = 1` (R60) returns the exact STATUS, with bit 0 set, and a free value (log 5) for any other register;
it records no error and changes no state of the block. -/
def Obligations.ReadWhileBusyIsExactForStatusOnly : Prop :=
  ∀ (s : State) (rest : List HostAction) (index : BitVec 4), s.busy = true → s.bus = .read index :: rest →
    ∃ t, step s = .next t ∧ t = { s with bus := rest, rdata := t.rdata, draws := t.draws } ∧
      (index = 5 → t.rdata = s.status ∧ t.rdata.getLsbD 0 = true) ∧
      (index ≠ 5 → t.rdata = Config.busyRead s.draws ∧ t.draws = s.draws + 1)

/-- The render port (R52) shows row `rp_row` for 0..23 with `BUSY = 0`, 0 for 24..31, and a free value (logs 5 and 9) while
`BUSY = 1`; a read of it never changes any state of the block. -/
def Obligations.RenderPortShowsTheGrid : Prop :=
  ∀ (s : State) (rest : List HostAction) (row : BitVec 5), s.bus = .render row :: rest →
    ∃ t, step s = .next t ∧ t = { s with bus := rest, rpData := t.rpData, draws := t.draws } ∧
      (∀ r : RowIndex, s.busy = false → row.toNat = r.val → t.rpData = s.grid[r]) ∧
      (s.busy = false → 24 ≤ row.toNat → t.rpData = 0) ∧
      (s.busy = true → t.rpData = Config.busyRender s.draws)

/-- R56: on a byte bus a 4-byte access at a multiple of 4 is the register-port access at a quarter of the offset, with lane
k of the word at byte k, and every other access is refused. -/
def Obligations.ByteBusTakesAlignedWordsOnly : Prop :=
  (∀ (s : State) (rest : List HostAction) (index : BitVec 4) (b0 b1 b2 b3 : Byte) (v : Word) (offset : BitVec 6),
    offset.toNat = 4 * index.toNat →
    v.toNat = b0.toNat + 2 ^ 8 * b1.toNat + 2 ^ 16 * b2.toNat + 2 ^ 24 * b3.toNat →
    step { s with bus := .busWrite offset [b0, b1, b2, b3] :: rest } = step { s with bus := .write index v :: rest } ∧
    step { s with bus := .busRead offset 4 :: rest } = step { s with bus := .read index :: rest }) ∧
  (∀ (s : State) (rest : List HostAction) (a : HostAction), a.Refused → ∃ r, step { s with bus := a :: rest } = .refused r)

/-- A command accepted at any latency keeps `BUSY = 1` until exactly its cycles of `CLK` have passed, at least one (R26,
R85, R199). The latency itself is a free value (log 3). -/
def Obligations.BusyLastsTheLatency : Prop :=
  (∀ (s : State) (w : Word), ∃ t f, issue w s = .next t ∧ t.inFlight = some f ∧ 1 ≤ f.cyclesLeft ∧
    f.cyclesLeft = 1 + Config.cmdLatency s.draws) ∧
  (∀ (s : State) (f : InFlight) (rest : List HostAction) (k : Nat),
    s.inFlight = some f → 1 ≤ f.cyclesLeft → s.bus = List.replicate k .clk ++ rest →
    ∃ t, Sys2Proof.core.run k s = .next t ∧ t.bus = rest ∧ (t.busy = true ↔ k < f.cyclesLeft) ∧
      t = { s with bus := rest, inFlight := t.inFlight })

/-- POLL (R80) is the reads of STATUS, each in a cycle of its own, until one shows `BUSY = 0`: taken together (log 4) it
ends where they end. -/
def Obligations.PollIsReadingStatusUntilIdle : Prop :=
  ∀ (s : State) (rest : List HostAction) (f : InFlight), s.inFlight = some f → 1 ≤ f.cyclesLeft →
    ∃ t, step { s with bus := .poll :: rest } = .next t ∧ t.busy = false ∧ t.rdata.getLsbD 0 = false ∧
      Sys2Proof.core.run (2 * f.cyclesLeft + 1)
        { s with bus := (List.replicate f.cyclesLeft [HostAction.read 5, HostAction.clk]).flatten ++ .read 5 :: rest }
        = .next t

/-- Every command completes whatever the state and its operands, and every action of the outside world leads to a next
state but a byte-bus access that R56 has the model refuse (R91, R92, R200). -/
def Obligations.NothingHangsOrFaults : Prop :=
  (∀ (i : Instr) (s : State), ∃ t, exec i s = .next t) ∧
  (∀ s : State, (∀ a, s.bus.head? = some a → ¬ a.Refused) → ∃ t, step s = .next t) ∧
  (∀ (s : State) (f : Fault), step s ≠ .fault f)

/-- R33: RULE is hardwired to 0. A write of CTRL with any bits, then a read of it, shows bit 0 of what was written and
nothing else, and records no error. -/
def Obligations.ControlKeepsOnlyRaw : Prop :=
  ∀ (s : State) (v : Word) (rest : List HostAction), s.busy = false → s.bus = .write 6 v :: .read 6 :: rest →
    ∃ t, Sys2Proof.core.run 2 s = .next t ∧ t.rdata = v &&& 1 ∧ t.err = s.err ∧ t.errcode = s.errcode ∧
      t = { s with bus := rest, raw := v.getLsbD 0, rdata := t.rdata }

/-- A line `CMD M n` of a host program (R80) on an idle block: the command's own effect on the state as it stands, and the
block is idle again with STATUS on `rdata` (R192, R194). POLL is one action that ends with the command in flight (log 4);
the command's own effect is that of exec with none in flight, which takes its operands from the registers (log 10). Both
are the model's deductions. -/
def Obligations.CommandLineRunsItsCommand : Prop :=
  ∀ (s : State) (i : Instr) (rest : List HostAction), s.inFlight = none → i.wellFormed = true →
    s.bus = lineCmd i ++ rest →
    ∃ u t, exec i s = .next u ∧ Sys2Proof.core.run 2 s = .next t ∧
      t = { u with bus := rest, inFlight := none, draws := s.draws + 1, rdata := t.rdata } ∧
      t.rdata = { u with inFlight := none }.status

/-! Reset and the invariants. -/

/-- R186 and the values of R185: one step of reset, whatever was in flight, leaves every element of R20 at its reset value. -/
def Obligations.ResetLeavesTheTableOfResetValues : Prop :=
  ∀ (s : State) (rest : List HostAction), s.bus = .rst :: rest →
    ∃ t, step s = .next t ∧
      (∀ r : RowIndex, t.grid[r] = 0 ∧ t.scratch[r] = 0) ∧ t.energy = s.cfg.maxCount ∧
      t.hist0 = 0 ∧ t.hist1 = 0 ∧ t.hist2 = 0 ∧ t.stagnant = false ∧ (∀ i : Fin 16, t.ps[i] = 0) ∧ t.idx = 0 ∧
      t.seeded = false ∧ t.seedState = .idle ∧ t.mode = false ∧ t.acc = 0 ∧ t.bitcnt = 0 ∧ t.wordcnt = 0 ∧
      t.pairPhase = false ∧ t.pairFirst = false ∧ t.last = 0 ∧ t.lastValid = false ∧ t.entCount = 0 ∧
      t.arg0 = 0 ∧ t.arg1 = 0 ∧ t.arg2 = 0 ∧ t.result = 0 ∧ t.raw = false ∧ t.err = false ∧ t.errcode = 0 ∧
      t.busy = false

/-- The invariant holds right after reset, for every legal `MAXCOUNT` and whatever the outside world is about to do. -/
def Obligations.ResetMeetsTheInvariant : Prop :=
  ∀ (c : Config) (bus : List HostAction), c.legal = true → { State.resetWith c with bus := bus }.Inv

/-- Every step keeps the invariant, from every state that meets it (R31, R46). -/
def Obligations.StepKeepsTheInvariant : Prop :=
  ∀ s t : State, s.Inv → step s = .next t → t.Inv

/-- The invariants that R46 derives for every reachable state, whatever the outside world does. The bounds of IDX and
BITCNT hold by the widths of R20, and that SEED_STATE is one of three values by the type the model gives it (log 18). -/
def Obligations.ReachableStatesMeetTheInvariants : Prop :=
  ∀ s : State, Reachable s →
    s.energy.toNat ≤ s.cfg.maxCount.toNat ∧ s.idx.toNat ≤ 15 ∧ s.bitcnt.toNat ≤ 31 ∧ s.wordcnt.toNat ≤ 16 ∧
    s.seedState ∈ [SeedState.idle, SeedState.active, SeedState.done] ∧
    (s.seeded = true ↔ s.seedState = .done) ∧
    (s.seedState = .idle → s.acc = 0 ∧ s.bitcnt = 0 ∧ s.wordcnt = 0 ∧ s.pairPhase = false ∧ s.pairFirst = false ∧
      s.last = 0 ∧ s.lastValid = false ∧ s.entCount = 0) ∧
    (s.err = false → s.errcode = 0) ∧ (s.err = true → 1 ≤ s.errcode.toNat ∧ s.errcode.toNat ≤ 6)

/-- R28: the transitions of SEED_STATE: each is made by its command, and no step makes another. None leaves DONE but
reset, and only reset leads to IDLE. -/
def Obligations.SeedStateMovesOnlyByItsCommands : Prop :=
  (∀ s t : State, exec .seedStart s = .next t → s.seedState = .idle → t.seedState = .active) ∧
  (∀ (s t : State) (b : Bool), exec .entSample s = .next t → s.seedState = .active → s.emits? s.operand0 = some b →
    s.bitcnt = 31 → s.wordcnt = 15 → t.seedState = .done) ∧
  (∀ s t : State, exec .prngIdx s = .next t → t.seedState = .done) ∧
  (∀ s t : State, step s = .next t → s.Resets → t.seedState = .idle) ∧
  (∀ s t : State, step s = .next t → t.seedState ≠ s.seedState →
    (s.Resets ∧ t.seedState = .idle) ∨
    (s.Accepts 0xB ∧ s.seedState = .idle ∧ t.seedState = .active) ∨
    (s.Accepts 0xC ∧ s.seedState = .active ∧ t.seedState = .done ∧ s.wordcnt = 15 ∧ s.bitcnt = 31 ∧ t.wordcnt = 16) ∨
    (s.Accepts 0xA ∧ s.seedState ≠ .done ∧ t.seedState = .done))

/-- Which commands write the grid, the lifecycle registers, RESULT and the generator's state: a step that changes one of
them is a reset or accepts a word of one of the commands that its rule names (R23, R29, R34, R35, R36, R40, R42). -/
def Obligations.OnlyTheNamedCommandsWrite : Prop :=
  ∀ s t : State, step s = .next t → ¬ s.Resets →
    (t.stagnant ≠ s.stagnant ∨ t.hist0 ≠ s.hist0 ∨ t.hist1 ≠ s.hist1 ∨ t.hist2 ≠ s.hist2 → s.Accepts 3) ∧
    (t.energy ≠ s.energy → s.Accepts 3 ∨ s.Accepts 4) ∧
    (t.scratch ≠ s.scratch → s.Accepts 2 ∨ s.Accepts 3) ∧
    (∀ r : RowIndex, t.grid[r] ≠ s.grid[r] → s.Accepts 2 ∨ s.Accepts 3 ∨ (s.Accepts 4 ∧ 8 ≤ r.val ∧ r.val ≤ 15) ∨
      s.Accepts (0x6 ||| (BitVec.ofNat 32 r.val <<< 4))) ∧
    (t.result ≠ s.result → s.Accepts 1 ∨ s.Accepts 2 ∨ s.Accepts 3 ∨ s.Accepts 7 ∨
      (∃ r : RowIndex, s.Accepts (0x5 ||| (BitVec.ofNat 32 r.val <<< 4))) ∨
      (∃ i : Fin 16, s.Accepts (0x8 ||| (BitVec.ofNat 32 i.val <<< 4)))) ∧
    (t.idx ≠ s.idx → s.Accepts 4 ∨ s.Accepts 7 ∨ s.Accepts 0xA ∨ s.Accepts 0xC) ∧
    (∀ i : Fin 16, t.ps[i] ≠ s.ps[i] → s.Accepts 4 ∨ s.Accepts 7 ∨ s.Accepts 0xC ∨
      s.Accepts (0x9 ||| (BitVec.ofNat 32 i.val <<< 4)))

/-- No command writes ARG0..ARG2 or CTRL (R87), and RESULT is written only by ROWCALC, EVOLVE, UPDATE, GRID_RD, PRNG_NEXT and
PRNG_RD (R23); a command discarded by decode or by the seeder's state writes nothing but ERR and ERRCODE, and neither does
exec of an ill-formed term, which the decoder never makes (the model's deduction, log 13). Nor does a command touch what the
model adds: the bus, what the ports showed, the draws (logs 1 and 7). -/
def Obligations.CommandsLeaveTheHostsRegisters : Prop :=
  (∀ (i : Instr) (s t : State), exec i s = .next t →
    t.arg0 = s.arg0 ∧ t.arg1 = s.arg1 ∧ t.arg2 = s.arg2 ∧ t.raw = s.raw ∧ t.inFlight = s.inFlight ∧ t.cfg = s.cfg ∧
    t.bus = s.bus ∧ t.rdata = s.rdata ∧ t.rpData = s.rpData ∧ t.draws = s.draws ∧
    (t.result ≠ s.result → i = .rowcalc ∨ i = .evolve ∨ i = .update ∨ i = .prngNext ∨
      (∃ row, i = .gridRd row) ∨ (∃ row, i = .prngRd row))) ∧
  (∀ (s t : State) (w : Word) (e : CmdError), decode w = .error e → issue w s = .next t →
    t = { s.accept w with err := t.err, errcode := t.errcode }) ∧
  (∀ (i : Instr) (s t : State), exec i s = .next t →
    (i.wellFormed = false ∨ (i = .seedStart ∧ s.seedState ≠ .idle) ∨ (i = .entSample ∧ s.seedState ≠ .active)) →
    t = { s with err := t.err, errcode := t.errcode })

/-- R190: before seeding completes these commands record no error, from any state; ENT_SAMPLE so in ACTIVE, SEED_START so
from IDLE; and so does every register read and every register write but CMD's with `BUSY = 0`. -/
def Obligations.SafeBeforeSeeding : Prop :=
  (∀ (i : Instr) (s t : State), i.wellFormed = true → i ≠ .prngNext → i ≠ .trigger →
    (i = .seedStart → s.seedState = .idle) → (i = .entSample → s.seedState = .active) →
    exec i s = .next t → t.err = s.err ∧ t.errcode = s.errcode) ∧
  (∀ (s t : State) (rest : List HostAction), s.busy = false → step s = .next t →
    (∀ index, s.bus = .read index :: rest → t.err = s.err ∧ t.errcode = s.errcode) ∧
    (∀ index v, s.bus = .write index v :: rest → index ≠ 0 → t.err = true → s.err = true ∧ t.errcode = s.errcode))

/-! NOP and the automaton. -/

/-- NOP changes no state (R88), but for `BUSY`, which is 1 after its write and 0 after the host's POLL (R80); that POLL is
one action that ends with the command and leaves STATUS on `rdata` is the model's deduction (log 4). NOP's one word is 0: a
word with OP = 0 and any bit of cmd[31:4] set is RESERVED_FIELD, and while `BUSY = 1` it records BUSY. -/
def Obligations.NopChangesNothing : Prop :=
  (∀ s : State, exec .nop s = .next s) ∧
  (∀ (s : State) (rest : List HostAction), s.busy = false → s.bus = .write 0 0x00000000 :: .poll :: rest →
    ∃ m t, step s = .next m ∧ m.busy = true ∧ step m = .next t ∧ t.busy = false ∧
      t = { s with bus := rest, rdata := s.status, draws := s.draws + 1 }) ∧
  decode 0x00000000 = .ok .nop ∧
  (∀ w : Word, w.toNat % 16 = 0 → w ≠ 0 → decode w = .error .reservedField) ∧
  (∀ (s : State) (rest : List HostAction), s.busy = true → s.bus = .write 0 0x00000000 :: rest →
    step s = .next { s with bus := rest, err := true, errcode := if s.err then s.errcode else 1 })

/-- R99: ROWCALC's row is the rule B3/S23, column by column on the ring of 32, from ARG0 above, ARG1 and ARG2 below; nothing
but RESULT changes. -/
def Obligations.RowcalcIsBirthThreeSurviveTwoThree : Prop :=
  ∀ s : State, ∃ t, exec .rowcalc s = .next t ∧ t = { s with result := t.result } ∧
    ∀ c : ColIndex, t.result.getLsbD c.val =
      lifeRule (s.operand1.getLsbD c.val) (rowNeighbours s.operand0 s.operand1 s.operand2 c)

/-- EVOLVE applies B3/S23 to every cell of the torus at once, from the grid before the command, keeps that grid in the
scratch rows, returns the checksum of the new grid (R101's, log 15) and changes nothing else (R99, R102, R103, R105). -/
def Obligations.EvolveIsLifeOnTheTorus : Prop :=
  ∀ s : State, ∃ t, exec .evolve s = .next t ∧
    (∀ (r : RowIndex) (c : ColIndex), alive t.grid r c = lifeRule (alive s.grid r c) (liveNeighbours s.grid r c)) ∧
    t.result = checksum t.grid ∧
    t = { s with grid := t.grid, scratch := s.grid, result := t.result }

/-- The torus has no seam: turning every row by k columns, or the rows by k places, before a generation is turning the
grid after it (R15, R96, R103, R108); and a generation does not know above from below (R103). -/
def Obligations.GenerationCommutesWithTurning : Prop :=
  (∀ (g : Grid) (k : Nat), k < 32 →
    nextGrid (Vector.ofFn fun r : RowIndex => g[r].rotateLeft k) =
      Vector.ofFn fun r : RowIndex => (nextGrid g)[r].rotateLeft k) ∧
  (∀ (g : Grid) (k : RowIndex),
    nextGrid (Vector.ofFn fun r : RowIndex => g[(r + k : RowIndex)]) =
      Vector.ofFn fun r : RowIndex => (nextGrid g)[(r + k : RowIndex)]) ∧
  (∀ above self below : Word, nextRow above self below = nextRow below self above)

/-- The checksum of R101 tells apart two grids that differ in exactly one row, so a generation that changes exactly one row
of the grid before it is never taken for a still life by a collision (R100, R117). That the checksum is R101's CRC-32, whose
constants are general knowledge, and not the parameter that R100 allows is the model's choice (log 15). -/
def Obligations.ChecksumSeesEveryOneRowChange : Prop :=
  ∀ (g : Grid) (r : RowIndex) (v : Word), v ≠ g[r] → checksum (g.set r.val v) ≠ checksum g

/-- GRID_RD and GRID_WR on a row 0..23: RESULT is the row; the row is ARG0 and no other row changes (R106, R107). Nothing
else changes. -/
def Obligations.GridRowsReadAndWrite : Prop :=
  ∀ (s : State) (row : BitVec 5) (r : RowIndex), row.toNat = r.val →
    exec (.gridRd row) s = .next { s with result := s.grid[r] } ∧
    ∃ t, exec (.gridWr row) s = .next t ∧ t = { s with grid := t.grid } ∧ t.grid[r] = s.operand0 ∧
      ∀ q : RowIndex, q ≠ r → t.grid[q] = s.grid[q]

/-! The lifecycle unit. -/

/-- R117, R118 and R120: UPDATE compares the new checksum with the history as it stood, sets the energy to 0 or one lower
and never below 0, and shifts the history every time. Its generation is EVOLVE's, which shifts no history; nothing else
changes. -/
def Obligations.UpdateJudgesAndShifts : Prop :=
  ∀ s : State, ∃ t e, exec .update s = .next t ∧ exec .evolve s = .next e ∧
    t.grid = e.grid ∧ t.scratch = e.scratch ∧ t.result = e.result ∧
    (t.stagnant = true ↔ t.result = s.hist0 ∨ (t.result = s.hist1 ∧ s.hist0 = s.hist2)) ∧
    t.energy.toNat = (if t.stagnant then 0 else s.energy.toNat - 1) ∧
    t.hist0 = t.result ∧ t.hist1 = s.hist0 ∧ t.hist2 = s.hist1 ∧
    e.hist0 = s.hist0 ∧ e.hist1 = s.hist1 ∧ e.hist2 = s.hist2 ∧
    t = { s with grid := t.grid, scratch := t.scratch, result := t.result, stagnant := t.stagnant, energy := t.energy,
                 hist0 := t.hist0, hist1 := t.hist1, hist2 := t.hist2 }

/-- Still life (R125 item 3): if a generation leaves the grid unchanged, the second of two UPDATEs returns the first one's
checksum and declares stagnation; from the reset history the first does not, unless its checksum is 0. -/
def Obligations.StillLifeStagnatesAtTheSecondUpdate : Prop :=
  ∀ s t u : State, nextGrid s.grid = s.grid → exec .update s = .next t → exec .update t = .next u →
    u.grid = s.grid ∧ u.result = t.result ∧ u.stagnant = true ∧ u.energy = 0 ∧
    (s.hist0 = 0 → s.hist1 = 0 → t.result ≠ 0 → t.stagnant = false)

/-- Period 2 from the reset history (R125 item 4): stagnation is declared at the 4th UPDATE and not before. -/
def Obligations.PeriodTwoStagnatesAtTheFourthUpdate : Prop :=
  ∀ s : State, nextGrid (nextGrid s.grid) = s.grid → s.hist0 = 0 → s.hist1 = 0 → s.hist2 = 0 →
    checksum s.grid ≠ checksum (nextGrid s.grid) → checksum s.grid ≠ 0 → checksum (nextGrid s.grid) ≠ 0 →
    ∃ t1 t2 t3 t4, exec .update s = .next t1 ∧ exec .update t1 = .next t2 ∧ exec .update t2 = .next t3 ∧
      exec .update t3 = .next t4 ∧ t1.stagnant = false ∧ t2.stagnant = false ∧ t3.stagnant = false ∧
      t4.stagnant = true ∧ t4.energy = 0 ∧ t4.grid = s.grid

/-- Stagnation persists (R125 item 5): on a grid of period 1 or 2, whatever the history, every UPDATE from the 4th on
declares stagnation and leaves no energy. -/
def Obligations.StagnationPersists : Prop :=
  ∀ (s : State) (n : Nat), nextGrid (nextGrid s.grid) = s.grid →
    ∃ t, execAll (List.replicate (n + 4) .update) s = .next t ∧ t.stagnant = true ∧ t.energy = 0

/-- Energy monotonicity (R125 item 1, R118): n UPDATEs without a TRIGGER take at least n from the energy, down to 0. -/
def Obligations.UpdatesRunTheEnergyDown : Prop :=
  ∀ (s : State) (n : Nat), ∃ t, execAll (List.replicate n .update) s = .next t ∧
    t.energy.toNat ≤ s.energy.toNat - n

/-- R122 and R123: TRIGGER sets cells of rows 8..15 and columns 12..19 by the bits of two draws and changes no other cell
nor clears one; the energy is MAXCOUNT, the generator has made two steps, UNSEEDED is recorded when `SEEDED = 0`, and
nothing else changes (R121). -/
def Obligations.TriggerSeedsTheBand : Prop :=
  ∀ s : State,
    let p := wellStep s.ps s.idx
    let q := wellStep p.1 p.2
    let w0 := p.1[p.2.toNat]
    let w1 := q.1[q.2.toNat]
    ∃ t, exec .trigger s = .next t ∧ t.energy = s.cfg.maxCount ∧ t.ps = q.1 ∧ t.idx = q.2 ∧
      (∀ (r : RowIndex) (c : ColIndex), alive t.grid r c = true ↔
        alive s.grid r c = true ∨
          (8 ≤ r.val ∧ r.val < 12 ∧ 12 ≤ c.val ∧ c.val < 20 ∧ w0.getLsbD (8 * (r.val - 8) + (c.val - 12)) = true) ∨
          (12 ≤ r.val ∧ r.val < 16 ∧ 12 ≤ c.val ∧ c.val < 20 ∧ w1.getLsbD (8 * (r.val - 12) + (c.val - 12)) = true)) ∧
      (s.seeded = true → t.err = s.err ∧ t.errcode = s.errcode) ∧
      (s.seeded = false → t.err = true ∧ t.errcode = if s.err then s.errcode else 6) ∧
      t = { s with grid := t.grid, energy := t.energy, ps := t.ps, idx := t.idx, err := t.err, errcode := t.errcode }

/-! The generator. -/

/-- R133 and R134: PRNG_NEXT writes the two slots IDX and IDX-1 with the words of the WELL512 recurrence, moves IDX down by
one modulo 16, returns the new PS[IDX] and changes no other slot. UNSEEDED is recorded when `SEEDED = 0` (R135). -/
def Obligations.PrngNextIsTheWellStep : Prop :=
  ∀ s : State,
    let at_ := fun k : Nat => s.ps[(s.idx.toNat + k) % 16]'(Nat.mod_lt _ (by decide))
    let b := at_ 0 ^^^ at_ 13 ^^^ (at_ 0 <<< 16) ^^^ (at_ 13 <<< 15)
    let c := at_ 9 ^^^ (at_ 9 >>> 11)
    let a := b ^^^ c
    let d := a ^^^ ((a <<< 5) &&& 0xDA442D24)
    let out := at_ 15 ^^^ b ^^^ d ^^^ (at_ 15 <<< 2) ^^^ (b <<< 18) ^^^ (c <<< 28)
    ∃ t, exec .prngNext s = .next t ∧ t.result = out ∧ t.idx.toNat = (s.idx.toNat + 15) % 16 ∧
      (∀ k : Fin 16, t.ps[k] =
        if k.val = s.idx.toNat then a else if k.val = (s.idx.toNat + 15) % 16 then out else s.ps[k]) ∧
      (s.seeded = true → t.err = s.err ∧ t.errcode = s.errcode) ∧
      (s.seeded = false → t.err = true ∧ t.errcode = if s.err then s.errcode else 6) ∧
      t = { s with ps := t.ps, idx := t.idx, result := t.result, err := t.err, errcode := t.errcode }

/-- R140: what PRNG_NEXT and TRIGGER draw depends on PS and IDX alone. Two blocks that agree on them and take the same
sequence of these commands agree on them after it, and on the word a last PRNG_NEXT returns. -/
def Obligations.DrawsDependOnTheGeneratorAlone : Prop :=
  ∀ (s u : State) (is : List Instr), s.ps = u.ps → s.idx = u.idx → (∀ i ∈ is, i = .prngNext ∨ i = .trigger) →
    ∃ s' u', execAll is s = .next s' ∧ execAll is u = .next u' ∧ s'.ps = u'.ps ∧ s'.idx = u'.idx ∧
      (is.getLast? = some .prngNext → s'.result = u'.result)

/-- IDX steps down by one modulo 16 with each draw and is back after 16 (R131); from sixteen zero words every draw is 0 and
they stay zero (R141). -/
def Obligations.DrawsTurnTheIndexAndKeepZero : Prop :=
  ∀ (s : State) (n : Nat), ∃ t, execAll (List.replicate n .prngNext) s = .next t ∧
    (t.idx.toNat + n) % 16 = s.idx.toNat ∧
    ((∀ k : Fin 16, s.ps[k] = 0) → (∀ k : Fin 16, t.ps[k] = 0) ∧ (0 < n → t.result = 0))

/-- PRNG_RD and PRNG_WR on a slot 0..15: RESULT is the slot; the slot is ARG0 and no other slot changes (R136, R137).
Nothing else changes, SEEDED and IDX among it. -/
def Obligations.PrngSlotsReadAndWrite : Prop :=
  ∀ (s : State) (row : BitVec 5) (k : Fin 16), row.toNat = k.val →
    exec (.prngRd row) s = .next { s with result := s.ps[k] } ∧
    ∃ t, exec (.prngWr row) s = .next t ∧ t = { s with ps := t.ps } ∧ t.ps[k] = s.operand0 ∧
      ∀ q : Fin 16, q ≠ k → t.ps[q] = s.ps[q]

/-- PRNG_IDX (R138): IDX is the low four bits of ARG0, the block is seeded and DONE, the accumulator is cleared, WORDCNT,
MODE and ENT_COUNT stay. On a block already seeded it changes only IDX. -/
def Obligations.PrngIdxEndsSeeding : Prop :=
  ∀ s : State, ∃ t, exec .prngIdx s = .next t ∧ t.idx.toNat = s.operand0.toNat % 16 ∧
    t = { s with idx := t.idx, seeded := true, seedState := .done, acc := 0, bitcnt := 0, pairPhase := false,
                 pairFirst := false, last := 0, lastValid := false } ∧
    (s.Inv → s.seeded = true → t = { s with idx := t.idx })

/-! Seeding. -/

/-- SEED_START (R146): from IDLE it latches CTRL.RAW into MODE, is ACTIVE and starts from an empty accumulator and zero
counts; SEEDED stays. -/
def Obligations.SeedStartBeginsSeeding : Prop :=
  ∀ s : State, s.seedState = .idle →
    exec .seedStart s = .next { s with
      mode := s.raw, seedState := .active, acc := 0, bitcnt := 0, wordcnt := 0, pairPhase := false, pairFirst := false,
      last := 0, lastValid := false, entCount := 0 }

/-- ENT_SAMPLE in ACTIVE, but for the 32nd bit of a word (R147 to R152): the sample is counted and kept; the first one only
primes LAST; in debiased mode a raw bit is held as the first of a pair, or with the held one emits nothing on a tie and
itself otherwise; in raw mode it is emitted. An emitted bit shifts ACC left and enters at bit 0. -/
def Obligations.SampleYieldsAtMostOneBit : Prop :=
  ∀ s : State, s.seedState = .active → (s.emits? s.operand0 ≠ none → s.bitcnt.toNat < 31) →
    exec .entSample s = .next { s with
      entCount := s.entCount + 1
      last := s.operand0
      lastValid := true
      pairPhase := if s.lastValid && !s.mode then !s.pairPhase else s.pairPhase
      pairFirst := if s.lastValid && !s.mode then !s.pairPhase && parityBit s.operand0 s.last else s.pairFirst
      acc := match s.emits? s.operand0 with
        | none => s.acc
        | some b => (s.acc <<< 1) ||| (if b then 1 else 0)
      bitcnt := match s.emits? s.operand0 with
        | none => s.bitcnt
        | some _ => s.bitcnt + 1 }

/-- The 32nd bit of a word (R152, R153): the word goes to slot WORDCNT, which is counted, and the accumulator starts again;
with the 16th word the block is seeded, DONE, at IDX 0, and the accumulator is discarded, WORDCNT, MODE and ENT_COUNT kept. -/
def Obligations.ThirtySecondBitCompletesTheWord : Prop :=
  ∀ (s : State) (b : Bool) (k : Fin 16), s.seedState = .active → s.emits? s.operand0 = some b → s.bitcnt = 31 →
    s.wordcnt.toNat = k.val →
    ∃ t, exec .entSample s = .next t ∧
      t.ps[k] = (s.acc <<< 1) ||| (if b then 1 else 0) ∧ (∀ q : Fin 16, q ≠ k → t.ps[q] = s.ps[q]) ∧
      t.wordcnt.toNat = k.val + 1 ∧
      (k.val < 15 → t = { s with
        ps := t.ps, wordcnt := t.wordcnt, acc := 0, bitcnt := 0, entCount := s.entCount + 1, last := s.operand0,
        lastValid := true, pairPhase := if s.mode then s.pairPhase else false,
        pairFirst := if s.mode then s.pairFirst else false }) ∧
      (k.val = 15 → t = { s with
        ps := t.ps, wordcnt := t.wordcnt, acc := 0, bitcnt := 0, entCount := s.entCount + 1, last := 0,
        lastValid := false, pairPhase := false, pairFirst := false, idx := 0, seeded := true, seedState := .done })

/-- R155, raw mode: seeding completes with the 513th sample after SEED_START and not before, whatever the samples. Each
sample is exec's with no command in flight (log 10). -/
def Obligations.RawSeedingTakes513Samples : Prop :=
  ∀ (s : State) (samples : List Word), s.seedState = .idle → s.seeded = false → s.raw = true → samples.length ≤ 513 →
    ∃ t u, exec .seedStart s = .next t ∧ feed samples t = .next u ∧
      (u.seeded = true ↔ samples.length = 513) ∧
      (u.seedState = if samples.length = 513 then .done else .active)

/-- R155, debiased mode: seeding needs at least 1025 samples, whatever they are. Each sample is exec's with no command in
flight (log 10). -/
def Obligations.DebiasedSeedingNeeds1025Samples : Prop :=
  ∀ (s : State) (samples : List Word), s.seedState = .idle → s.seeded = false → s.raw = false → samples.length < 1025 →
    ∃ t u, exec .seedStart s = .next t ∧ feed samples t = .next u ∧ u.seeded = false ∧ u.seedState = .active

/-- R148 and R155: the seed depends on the samples only through their bit 0. Two sequences of samples with the same bits 0
leave the same words, index, progress and state of seeding. Each sample is exec's with no command in flight (log 10). -/
def Obligations.SeedDependsOnSampleBitZeroOnly : Prop :=
  ∀ (s : State) (xs ys : List Word), xs.map (·.getLsbD 0) = ys.map (·.getLsbD 0) → s.seedState = .idle →
    ∃ t u v, exec .seedStart s = .next t ∧ feed xs t = .next u ∧ feed ys t = .next v ∧
      u.ps = v.ps ∧ u.idx = v.idx ∧ u.seeded = v.seeded ∧ u.seedState = v.seedState ∧ u.acc = v.acc ∧
      u.bitcnt = v.bitcnt ∧ u.wordcnt = v.wordcnt ∧ u.entCount = v.entCount

/-- The seeding stall (R156): in debiased mode, if all raw bits are equal, however many samples come no bit is emitted and
seeding does not complete. Each sample is exec's with no command in flight (log 10). -/
def Obligations.EqualRawBitsNeverSeed : Prop :=
  ∀ (s : State) (samples : List Word) (b : Bool), s.seedState = .idle → s.raw = false →
    (∀ (k : Nat) (h : k + 1 < samples.length), parityBit samples[k + 1] samples[k] = b) →
    ∃ t u, exec .seedStart s = .next t ∧ feed samples t = .next u ∧ u.seedState = .active ∧ u.bitcnt = 0 ∧
      u.wordcnt = 0 ∧ u.ps = s.ps ∧ u.entCount = BitVec.ofNat 32 samples.length

/-- R155, debiased mode: 1025 samples suffice when no pair is a tie. The two raw bits of every pair differ, pair k being the
raw bits of samples 2k+1 and 2k+2 (R149, R150); then seeding is complete with the 1025th sample, at IDX 0 and 16 words
(R153). Each sample is exec's with no command in flight (log 10). -/
def Obligations.TieFreeSamplesSeedAtThe1025th : Prop :=
  ∀ (s : State) (samples : List Word), s.seedState = .idle → s.seeded = false → s.raw = false →
    (hl : samples.length = 1025) →
    (∀ (k : Nat) (h : k < 512), parityBit samples[2 * k + 1] samples[2 * k] ≠
      parityBit samples[2 * k + 2] samples[2 * k + 1]) →
    ∃ t u, exec .seedStart s = .next t ∧ feed samples t = .next u ∧ u.seeded = true ∧ u.seedState = .done ∧
      u.idx = 0 ∧ u.wordcnt = 16 ∧ u.entCount = 1025
end

