-- ==== Sys2Proof/Laws/State.lean ====
section
/-! SUPPORT. What each named update of the state leaves in each field, so that no proof unfolds a record update: a field an
update writes, where its value is unconditional, and every field it leaves alone. -/

namespace Sys2Proof.Machine

/-! `State.raise`. -/

@[simp] theorem State.raise_grid (s : State) (e : CmdError) : (s.raise e).grid = s.grid :=
  by unfold State.raise; split <;> rfl
@[simp] theorem State.raise_scratch (s : State) (e : CmdError) : (s.raise e).scratch = s.scratch :=
  by unfold State.raise; split <;> rfl
@[simp] theorem State.raise_energy (s : State) (e : CmdError) : (s.raise e).energy = s.energy :=
  by unfold State.raise; split <;> rfl
@[simp] theorem State.raise_hist0 (s : State) (e : CmdError) : (s.raise e).hist0 = s.hist0 :=
  by unfold State.raise; split <;> rfl
@[simp] theorem State.raise_hist1 (s : State) (e : CmdError) : (s.raise e).hist1 = s.hist1 :=
  by unfold State.raise; split <;> rfl
@[simp] theorem State.raise_hist2 (s : State) (e : CmdError) : (s.raise e).hist2 = s.hist2 :=
  by unfold State.raise; split <;> rfl
@[simp] theorem State.raise_stagnant (s : State) (e : CmdError) : (s.raise e).stagnant = s.stagnant :=
  by unfold State.raise; split <;> rfl
@[simp] theorem State.raise_ps (s : State) (e : CmdError) : (s.raise e).ps = s.ps :=
  by unfold State.raise; split <;> rfl
@[simp] theorem State.raise_idx (s : State) (e : CmdError) : (s.raise e).idx = s.idx :=
  by unfold State.raise; split <;> rfl
@[simp] theorem State.raise_seeded (s : State) (e : CmdError) : (s.raise e).seeded = s.seeded :=
  by unfold State.raise; split <;> rfl
@[simp] theorem State.raise_seedState (s : State) (e : CmdError) : (s.raise e).seedState = s.seedState :=
  by unfold State.raise; split <;> rfl
@[simp] theorem State.raise_mode (s : State) (e : CmdError) : (s.raise e).mode = s.mode :=
  by unfold State.raise; split <;> rfl
@[simp] theorem State.raise_acc (s : State) (e : CmdError) : (s.raise e).acc = s.acc :=
  by unfold State.raise; split <;> rfl
@[simp] theorem State.raise_bitcnt (s : State) (e : CmdError) : (s.raise e).bitcnt = s.bitcnt :=
  by unfold State.raise; split <;> rfl
@[simp] theorem State.raise_wordcnt (s : State) (e : CmdError) : (s.raise e).wordcnt = s.wordcnt :=
  by unfold State.raise; split <;> rfl
@[simp] theorem State.raise_pairPhase (s : State) (e : CmdError) : (s.raise e).pairPhase = s.pairPhase :=
  by unfold State.raise; split <;> rfl
@[simp] theorem State.raise_pairFirst (s : State) (e : CmdError) : (s.raise e).pairFirst = s.pairFirst :=
  by unfold State.raise; split <;> rfl
@[simp] theorem State.raise_last (s : State) (e : CmdError) : (s.raise e).last = s.last :=
  by unfold State.raise; split <;> rfl
@[simp] theorem State.raise_lastValid (s : State) (e : CmdError) : (s.raise e).lastValid = s.lastValid :=
  by unfold State.raise; split <;> rfl
@[simp] theorem State.raise_entCount (s : State) (e : CmdError) : (s.raise e).entCount = s.entCount :=
  by unfold State.raise; split <;> rfl
@[simp] theorem State.raise_arg0 (s : State) (e : CmdError) : (s.raise e).arg0 = s.arg0 :=
  by unfold State.raise; split <;> rfl
@[simp] theorem State.raise_arg1 (s : State) (e : CmdError) : (s.raise e).arg1 = s.arg1 :=
  by unfold State.raise; split <;> rfl
@[simp] theorem State.raise_arg2 (s : State) (e : CmdError) : (s.raise e).arg2 = s.arg2 :=
  by unfold State.raise; split <;> rfl
@[simp] theorem State.raise_result (s : State) (e : CmdError) : (s.raise e).result = s.result :=
  by unfold State.raise; split <;> rfl
@[simp] theorem State.raise_raw (s : State) (e : CmdError) : (s.raise e).raw = s.raw :=
  by unfold State.raise; split <;> rfl
@[simp] theorem State.raise_inFlight (s : State) (e : CmdError) : (s.raise e).inFlight = s.inFlight :=
  by unfold State.raise; split <;> rfl
@[simp] theorem State.raise_cfg (s : State) (e : CmdError) : (s.raise e).cfg = s.cfg :=
  by unfold State.raise; split <;> rfl
@[simp] theorem State.raise_bus (s : State) (e : CmdError) : (s.raise e).bus = s.bus :=
  by unfold State.raise; split <;> rfl
@[simp] theorem State.raise_rdata (s : State) (e : CmdError) : (s.raise e).rdata = s.rdata :=
  by unfold State.raise; split <;> rfl
@[simp] theorem State.raise_rpData (s : State) (e : CmdError) : (s.raise e).rpData = s.rpData :=
  by unfold State.raise; split <;> rfl
@[simp] theorem State.raise_draws (s : State) (e : CmdError) : (s.raise e).draws = s.draws :=
  by unfold State.raise; split <;> rfl

/-! `State.checkSeeded`. -/

@[simp] theorem State.checkSeeded_grid (s : State) : (s.checkSeeded).grid = s.grid :=
  by unfold State.checkSeeded; split <;> simp
@[simp] theorem State.checkSeeded_scratch (s : State) : (s.checkSeeded).scratch = s.scratch :=
  by unfold State.checkSeeded; split <;> simp
@[simp] theorem State.checkSeeded_energy (s : State) : (s.checkSeeded).energy = s.energy :=
  by unfold State.checkSeeded; split <;> simp
@[simp] theorem State.checkSeeded_hist0 (s : State) : (s.checkSeeded).hist0 = s.hist0 :=
  by unfold State.checkSeeded; split <;> simp
@[simp] theorem State.checkSeeded_hist1 (s : State) : (s.checkSeeded).hist1 = s.hist1 :=
  by unfold State.checkSeeded; split <;> simp
@[simp] theorem State.checkSeeded_hist2 (s : State) : (s.checkSeeded).hist2 = s.hist2 :=
  by unfold State.checkSeeded; split <;> simp
@[simp] theorem State.checkSeeded_stagnant (s : State) : (s.checkSeeded).stagnant = s.stagnant :=
  by unfold State.checkSeeded; split <;> simp
@[simp] theorem State.checkSeeded_ps (s : State) : (s.checkSeeded).ps = s.ps :=
  by unfold State.checkSeeded; split <;> simp
@[simp] theorem State.checkSeeded_idx (s : State) : (s.checkSeeded).idx = s.idx :=
  by unfold State.checkSeeded; split <;> simp
@[simp] theorem State.checkSeeded_seeded (s : State) : (s.checkSeeded).seeded = s.seeded :=
  by unfold State.checkSeeded; split <;> simp
@[simp] theorem State.checkSeeded_seedState (s : State) : (s.checkSeeded).seedState = s.seedState :=
  by unfold State.checkSeeded; split <;> simp
@[simp] theorem State.checkSeeded_mode (s : State) : (s.checkSeeded).mode = s.mode :=
  by unfold State.checkSeeded; split <;> simp
@[simp] theorem State.checkSeeded_acc (s : State) : (s.checkSeeded).acc = s.acc :=
  by unfold State.checkSeeded; split <;> simp
@[simp] theorem State.checkSeeded_bitcnt (s : State) : (s.checkSeeded).bitcnt = s.bitcnt :=
  by unfold State.checkSeeded; split <;> simp
@[simp] theorem State.checkSeeded_wordcnt (s : State) : (s.checkSeeded).wordcnt = s.wordcnt :=
  by unfold State.checkSeeded; split <;> simp
@[simp] theorem State.checkSeeded_pairPhase (s : State) : (s.checkSeeded).pairPhase = s.pairPhase :=
  by unfold State.checkSeeded; split <;> simp
@[simp] theorem State.checkSeeded_pairFirst (s : State) : (s.checkSeeded).pairFirst = s.pairFirst :=
  by unfold State.checkSeeded; split <;> simp
@[simp] theorem State.checkSeeded_last (s : State) : (s.checkSeeded).last = s.last :=
  by unfold State.checkSeeded; split <;> simp
@[simp] theorem State.checkSeeded_lastValid (s : State) : (s.checkSeeded).lastValid = s.lastValid :=
  by unfold State.checkSeeded; split <;> simp
@[simp] theorem State.checkSeeded_entCount (s : State) : (s.checkSeeded).entCount = s.entCount :=
  by unfold State.checkSeeded; split <;> simp
@[simp] theorem State.checkSeeded_arg0 (s : State) : (s.checkSeeded).arg0 = s.arg0 :=
  by unfold State.checkSeeded; split <;> simp
@[simp] theorem State.checkSeeded_arg1 (s : State) : (s.checkSeeded).arg1 = s.arg1 :=
  by unfold State.checkSeeded; split <;> simp
@[simp] theorem State.checkSeeded_arg2 (s : State) : (s.checkSeeded).arg2 = s.arg2 :=
  by unfold State.checkSeeded; split <;> simp
@[simp] theorem State.checkSeeded_result (s : State) : (s.checkSeeded).result = s.result :=
  by unfold State.checkSeeded; split <;> simp
@[simp] theorem State.checkSeeded_raw (s : State) : (s.checkSeeded).raw = s.raw :=
  by unfold State.checkSeeded; split <;> simp
@[simp] theorem State.checkSeeded_inFlight (s : State) : (s.checkSeeded).inFlight = s.inFlight :=
  by unfold State.checkSeeded; split <;> simp
@[simp] theorem State.checkSeeded_cfg (s : State) : (s.checkSeeded).cfg = s.cfg :=
  by unfold State.checkSeeded; split <;> simp
@[simp] theorem State.checkSeeded_bus (s : State) : (s.checkSeeded).bus = s.bus :=
  by unfold State.checkSeeded; split <;> simp
@[simp] theorem State.checkSeeded_rdata (s : State) : (s.checkSeeded).rdata = s.rdata :=
  by unfold State.checkSeeded; split <;> simp
@[simp] theorem State.checkSeeded_rpData (s : State) : (s.checkSeeded).rpData = s.rpData :=
  by unfold State.checkSeeded; split <;> simp
@[simp] theorem State.checkSeeded_draws (s : State) : (s.checkSeeded).draws = s.draws :=
  by unfold State.checkSeeded; split <;> simp

/-! `State.clearError`. -/

@[simp] theorem State.clearError_grid (s : State) : (s.clearError).grid = s.grid := rfl
@[simp] theorem State.clearError_scratch (s : State) : (s.clearError).scratch = s.scratch := rfl
@[simp] theorem State.clearError_energy (s : State) : (s.clearError).energy = s.energy := rfl
@[simp] theorem State.clearError_hist0 (s : State) : (s.clearError).hist0 = s.hist0 := rfl
@[simp] theorem State.clearError_hist1 (s : State) : (s.clearError).hist1 = s.hist1 := rfl
@[simp] theorem State.clearError_hist2 (s : State) : (s.clearError).hist2 = s.hist2 := rfl
@[simp] theorem State.clearError_stagnant (s : State) : (s.clearError).stagnant = s.stagnant := rfl
@[simp] theorem State.clearError_ps (s : State) : (s.clearError).ps = s.ps := rfl
@[simp] theorem State.clearError_idx (s : State) : (s.clearError).idx = s.idx := rfl
@[simp] theorem State.clearError_seeded (s : State) : (s.clearError).seeded = s.seeded := rfl
@[simp] theorem State.clearError_seedState (s : State) : (s.clearError).seedState = s.seedState := rfl
@[simp] theorem State.clearError_mode (s : State) : (s.clearError).mode = s.mode := rfl
@[simp] theorem State.clearError_acc (s : State) : (s.clearError).acc = s.acc := rfl
@[simp] theorem State.clearError_bitcnt (s : State) : (s.clearError).bitcnt = s.bitcnt := rfl
@[simp] theorem State.clearError_wordcnt (s : State) : (s.clearError).wordcnt = s.wordcnt := rfl
@[simp] theorem State.clearError_pairPhase (s : State) : (s.clearError).pairPhase = s.pairPhase := rfl
@[simp] theorem State.clearError_pairFirst (s : State) : (s.clearError).pairFirst = s.pairFirst := rfl
@[simp] theorem State.clearError_last (s : State) : (s.clearError).last = s.last := rfl
@[simp] theorem State.clearError_lastValid (s : State) : (s.clearError).lastValid = s.lastValid := rfl
@[simp] theorem State.clearError_entCount (s : State) : (s.clearError).entCount = s.entCount := rfl
@[simp] theorem State.clearError_arg0 (s : State) : (s.clearError).arg0 = s.arg0 := rfl
@[simp] theorem State.clearError_arg1 (s : State) : (s.clearError).arg1 = s.arg1 := rfl
@[simp] theorem State.clearError_arg2 (s : State) : (s.clearError).arg2 = s.arg2 := rfl
@[simp] theorem State.clearError_result (s : State) : (s.clearError).result = s.result := rfl
@[simp] theorem State.clearError_raw (s : State) : (s.clearError).raw = s.raw := rfl
@[simp] theorem State.clearError_err (s : State) : (s.clearError).err = false := rfl
@[simp] theorem State.clearError_errcode (s : State) : (s.clearError).errcode = 0 := rfl
@[simp] theorem State.clearError_inFlight (s : State) : (s.clearError).inFlight = s.inFlight := rfl
@[simp] theorem State.clearError_cfg (s : State) : (s.clearError).cfg = s.cfg := rfl
@[simp] theorem State.clearError_bus (s : State) : (s.clearError).bus = s.bus := rfl
@[simp] theorem State.clearError_rdata (s : State) : (s.clearError).rdata = s.rdata := rfl
@[simp] theorem State.clearError_rpData (s : State) : (s.clearError).rpData = s.rpData := rfl
@[simp] theorem State.clearError_draws (s : State) : (s.clearError).draws = s.draws := rfl

/-! `State.accept`. -/

@[simp] theorem State.accept_grid (s : State) (cmd : Word) : (s.accept cmd).grid = s.grid := rfl
@[simp] theorem State.accept_scratch (s : State) (cmd : Word) : (s.accept cmd).scratch = s.scratch := rfl
@[simp] theorem State.accept_energy (s : State) (cmd : Word) : (s.accept cmd).energy = s.energy := rfl
@[simp] theorem State.accept_hist0 (s : State) (cmd : Word) : (s.accept cmd).hist0 = s.hist0 := rfl
@[simp] theorem State.accept_hist1 (s : State) (cmd : Word) : (s.accept cmd).hist1 = s.hist1 := rfl
@[simp] theorem State.accept_hist2 (s : State) (cmd : Word) : (s.accept cmd).hist2 = s.hist2 := rfl
@[simp] theorem State.accept_stagnant (s : State) (cmd : Word) : (s.accept cmd).stagnant = s.stagnant := rfl
@[simp] theorem State.accept_ps (s : State) (cmd : Word) : (s.accept cmd).ps = s.ps := rfl
@[simp] theorem State.accept_idx (s : State) (cmd : Word) : (s.accept cmd).idx = s.idx := rfl
@[simp] theorem State.accept_seeded (s : State) (cmd : Word) : (s.accept cmd).seeded = s.seeded := rfl
@[simp] theorem State.accept_seedState (s : State) (cmd : Word) : (s.accept cmd).seedState = s.seedState := rfl
@[simp] theorem State.accept_mode (s : State) (cmd : Word) : (s.accept cmd).mode = s.mode := rfl
@[simp] theorem State.accept_acc (s : State) (cmd : Word) : (s.accept cmd).acc = s.acc := rfl
@[simp] theorem State.accept_bitcnt (s : State) (cmd : Word) : (s.accept cmd).bitcnt = s.bitcnt := rfl
@[simp] theorem State.accept_wordcnt (s : State) (cmd : Word) : (s.accept cmd).wordcnt = s.wordcnt := rfl
@[simp] theorem State.accept_pairPhase (s : State) (cmd : Word) : (s.accept cmd).pairPhase = s.pairPhase := rfl
@[simp] theorem State.accept_pairFirst (s : State) (cmd : Word) : (s.accept cmd).pairFirst = s.pairFirst := rfl
@[simp] theorem State.accept_last (s : State) (cmd : Word) : (s.accept cmd).last = s.last := rfl
@[simp] theorem State.accept_lastValid (s : State) (cmd : Word) : (s.accept cmd).lastValid = s.lastValid := rfl
@[simp] theorem State.accept_entCount (s : State) (cmd : Word) : (s.accept cmd).entCount = s.entCount := rfl
@[simp] theorem State.accept_arg0 (s : State) (cmd : Word) : (s.accept cmd).arg0 = s.arg0 := rfl
@[simp] theorem State.accept_arg1 (s : State) (cmd : Word) : (s.accept cmd).arg1 = s.arg1 := rfl
@[simp] theorem State.accept_arg2 (s : State) (cmd : Word) : (s.accept cmd).arg2 = s.arg2 := rfl
@[simp] theorem State.accept_result (s : State) (cmd : Word) : (s.accept cmd).result = s.result := rfl
@[simp] theorem State.accept_raw (s : State) (cmd : Word) : (s.accept cmd).raw = s.raw := rfl
@[simp] theorem State.accept_err (s : State) (cmd : Word) : (s.accept cmd).err = s.err := rfl
@[simp] theorem State.accept_errcode (s : State) (cmd : Word) : (s.accept cmd).errcode = s.errcode := rfl
@[simp] theorem State.accept_inFlight (s : State) (cmd : Word) : (s.accept cmd).inFlight = some { word := cmd, arg0 := s.arg0, arg1 := s.arg1, arg2 := s.arg2, cyclesLeft := 1 + Config.cmdLatency s.draws } :=
  rfl
@[simp] theorem State.accept_cfg (s : State) (cmd : Word) : (s.accept cmd).cfg = s.cfg := rfl
@[simp] theorem State.accept_bus (s : State) (cmd : Word) : (s.accept cmd).bus = s.bus := rfl
@[simp] theorem State.accept_rdata (s : State) (cmd : Word) : (s.accept cmd).rdata = s.rdata := rfl
@[simp] theorem State.accept_rpData (s : State) (cmd : Word) : (s.accept cmd).rpData = s.rpData := rfl
@[simp] theorem State.accept_draws (s : State) (cmd : Word) : (s.accept cmd).draws = s.draws + 1 := rfl

/-! `State.complete`. -/

@[simp] theorem State.complete_grid (s : State) : (s.complete).grid = s.grid := rfl
@[simp] theorem State.complete_scratch (s : State) : (s.complete).scratch = s.scratch := rfl
@[simp] theorem State.complete_energy (s : State) : (s.complete).energy = s.energy := rfl
@[simp] theorem State.complete_hist0 (s : State) : (s.complete).hist0 = s.hist0 := rfl
@[simp] theorem State.complete_hist1 (s : State) : (s.complete).hist1 = s.hist1 := rfl
@[simp] theorem State.complete_hist2 (s : State) : (s.complete).hist2 = s.hist2 := rfl
@[simp] theorem State.complete_stagnant (s : State) : (s.complete).stagnant = s.stagnant := rfl
@[simp] theorem State.complete_ps (s : State) : (s.complete).ps = s.ps := rfl
@[simp] theorem State.complete_idx (s : State) : (s.complete).idx = s.idx := rfl
@[simp] theorem State.complete_seeded (s : State) : (s.complete).seeded = s.seeded := rfl
@[simp] theorem State.complete_seedState (s : State) : (s.complete).seedState = s.seedState := rfl
@[simp] theorem State.complete_mode (s : State) : (s.complete).mode = s.mode := rfl
@[simp] theorem State.complete_acc (s : State) : (s.complete).acc = s.acc := rfl
@[simp] theorem State.complete_bitcnt (s : State) : (s.complete).bitcnt = s.bitcnt := rfl
@[simp] theorem State.complete_wordcnt (s : State) : (s.complete).wordcnt = s.wordcnt := rfl
@[simp] theorem State.complete_pairPhase (s : State) : (s.complete).pairPhase = s.pairPhase := rfl
@[simp] theorem State.complete_pairFirst (s : State) : (s.complete).pairFirst = s.pairFirst := rfl
@[simp] theorem State.complete_last (s : State) : (s.complete).last = s.last := rfl
@[simp] theorem State.complete_lastValid (s : State) : (s.complete).lastValid = s.lastValid := rfl
@[simp] theorem State.complete_entCount (s : State) : (s.complete).entCount = s.entCount := rfl
@[simp] theorem State.complete_arg0 (s : State) : (s.complete).arg0 = s.arg0 := rfl
@[simp] theorem State.complete_arg1 (s : State) : (s.complete).arg1 = s.arg1 := rfl
@[simp] theorem State.complete_arg2 (s : State) : (s.complete).arg2 = s.arg2 := rfl
@[simp] theorem State.complete_result (s : State) : (s.complete).result = s.result := rfl
@[simp] theorem State.complete_raw (s : State) : (s.complete).raw = s.raw := rfl
@[simp] theorem State.complete_err (s : State) : (s.complete).err = s.err := rfl
@[simp] theorem State.complete_errcode (s : State) : (s.complete).errcode = s.errcode := rfl
@[simp] theorem State.complete_inFlight (s : State) : (s.complete).inFlight = none := rfl
@[simp] theorem State.complete_cfg (s : State) : (s.complete).cfg = s.cfg := rfl
@[simp] theorem State.complete_bus (s : State) : (s.complete).bus = s.bus := rfl
@[simp] theorem State.complete_rdata (s : State) : (s.complete).rdata = s.rdata := rfl
@[simp] theorem State.complete_rpData (s : State) : (s.complete).rpData = s.rpData := rfl
@[simp] theorem State.complete_draws (s : State) : (s.complete).draws = s.draws := rfl

/-! `State.clock`. -/

@[simp] theorem State.clock_grid (s : State) : (s.clock).grid = s.grid := rfl
@[simp] theorem State.clock_scratch (s : State) : (s.clock).scratch = s.scratch := rfl
@[simp] theorem State.clock_energy (s : State) : (s.clock).energy = s.energy := rfl
@[simp] theorem State.clock_hist0 (s : State) : (s.clock).hist0 = s.hist0 := rfl
@[simp] theorem State.clock_hist1 (s : State) : (s.clock).hist1 = s.hist1 := rfl
@[simp] theorem State.clock_hist2 (s : State) : (s.clock).hist2 = s.hist2 := rfl
@[simp] theorem State.clock_stagnant (s : State) : (s.clock).stagnant = s.stagnant := rfl
@[simp] theorem State.clock_ps (s : State) : (s.clock).ps = s.ps := rfl
@[simp] theorem State.clock_idx (s : State) : (s.clock).idx = s.idx := rfl
@[simp] theorem State.clock_seeded (s : State) : (s.clock).seeded = s.seeded := rfl
@[simp] theorem State.clock_seedState (s : State) : (s.clock).seedState = s.seedState := rfl
@[simp] theorem State.clock_mode (s : State) : (s.clock).mode = s.mode := rfl
@[simp] theorem State.clock_acc (s : State) : (s.clock).acc = s.acc := rfl
@[simp] theorem State.clock_bitcnt (s : State) : (s.clock).bitcnt = s.bitcnt := rfl
@[simp] theorem State.clock_wordcnt (s : State) : (s.clock).wordcnt = s.wordcnt := rfl
@[simp] theorem State.clock_pairPhase (s : State) : (s.clock).pairPhase = s.pairPhase := rfl
@[simp] theorem State.clock_pairFirst (s : State) : (s.clock).pairFirst = s.pairFirst := rfl
@[simp] theorem State.clock_last (s : State) : (s.clock).last = s.last := rfl
@[simp] theorem State.clock_lastValid (s : State) : (s.clock).lastValid = s.lastValid := rfl
@[simp] theorem State.clock_entCount (s : State) : (s.clock).entCount = s.entCount := rfl
@[simp] theorem State.clock_arg0 (s : State) : (s.clock).arg0 = s.arg0 := rfl
@[simp] theorem State.clock_arg1 (s : State) : (s.clock).arg1 = s.arg1 := rfl
@[simp] theorem State.clock_arg2 (s : State) : (s.clock).arg2 = s.arg2 := rfl
@[simp] theorem State.clock_result (s : State) : (s.clock).result = s.result := rfl
@[simp] theorem State.clock_raw (s : State) : (s.clock).raw = s.raw := rfl
@[simp] theorem State.clock_err (s : State) : (s.clock).err = s.err := rfl
@[simp] theorem State.clock_errcode (s : State) : (s.clock).errcode = s.errcode := rfl
@[simp] theorem State.clock_inFlight (s : State) : (s.clock).inFlight = s.inFlight.bind InFlight.afterCycle := rfl
@[simp] theorem State.clock_cfg (s : State) : (s.clock).cfg = s.cfg := rfl
@[simp] theorem State.clock_bus (s : State) : (s.clock).bus = s.bus := rfl
@[simp] theorem State.clock_rdata (s : State) : (s.clock).rdata = s.rdata := rfl
@[simp] theorem State.clock_rpData (s : State) : (s.clock).rpData = s.rpData := rfl
@[simp] theorem State.clock_draws (s : State) : (s.clock).draws = s.draws := rfl

/-! `State.setRow`. -/

@[simp] theorem State.setRow_grid (s : State) (r : RowIndex) (v : Word) : (s.setRow r v).grid = s.grid.set r v :=
  by unfold State.setRow; rfl
@[simp] theorem State.setRow_scratch (s : State) (r : RowIndex) (v : Word) : (s.setRow r v).scratch = s.scratch :=
  by unfold State.setRow; rfl
@[simp] theorem State.setRow_energy (s : State) (r : RowIndex) (v : Word) : (s.setRow r v).energy = s.energy :=
  by unfold State.setRow; rfl
@[simp] theorem State.setRow_hist0 (s : State) (r : RowIndex) (v : Word) : (s.setRow r v).hist0 = s.hist0 :=
  by unfold State.setRow; rfl
@[simp] theorem State.setRow_hist1 (s : State) (r : RowIndex) (v : Word) : (s.setRow r v).hist1 = s.hist1 :=
  by unfold State.setRow; rfl
@[simp] theorem State.setRow_hist2 (s : State) (r : RowIndex) (v : Word) : (s.setRow r v).hist2 = s.hist2 :=
  by unfold State.setRow; rfl
@[simp] theorem State.setRow_stagnant (s : State) (r : RowIndex) (v : Word) : (s.setRow r v).stagnant = s.stagnant :=
  by unfold State.setRow; rfl
@[simp] theorem State.setRow_ps (s : State) (r : RowIndex) (v : Word) : (s.setRow r v).ps = s.ps :=
  by unfold State.setRow; rfl
@[simp] theorem State.setRow_idx (s : State) (r : RowIndex) (v : Word) : (s.setRow r v).idx = s.idx :=
  by unfold State.setRow; rfl
@[simp] theorem State.setRow_seeded (s : State) (r : RowIndex) (v : Word) : (s.setRow r v).seeded = s.seeded :=
  by unfold State.setRow; rfl
@[simp] theorem State.setRow_seedState (s : State) (r : RowIndex) (v : Word) : (s.setRow r v).seedState = s.seedState :=
  by unfold State.setRow; rfl
@[simp] theorem State.setRow_mode (s : State) (r : RowIndex) (v : Word) : (s.setRow r v).mode = s.mode :=
  by unfold State.setRow; rfl
@[simp] theorem State.setRow_acc (s : State) (r : RowIndex) (v : Word) : (s.setRow r v).acc = s.acc :=
  by unfold State.setRow; rfl
@[simp] theorem State.setRow_bitcnt (s : State) (r : RowIndex) (v : Word) : (s.setRow r v).bitcnt = s.bitcnt :=
  by unfold State.setRow; rfl
@[simp] theorem State.setRow_wordcnt (s : State) (r : RowIndex) (v : Word) : (s.setRow r v).wordcnt = s.wordcnt :=
  by unfold State.setRow; rfl
@[simp] theorem State.setRow_pairPhase (s : State) (r : RowIndex) (v : Word) : (s.setRow r v).pairPhase = s.pairPhase :=
  by unfold State.setRow; rfl
@[simp] theorem State.setRow_pairFirst (s : State) (r : RowIndex) (v : Word) : (s.setRow r v).pairFirst = s.pairFirst :=
  by unfold State.setRow; rfl
@[simp] theorem State.setRow_last (s : State) (r : RowIndex) (v : Word) : (s.setRow r v).last = s.last :=
  by unfold State.setRow; rfl
@[simp] theorem State.setRow_lastValid (s : State) (r : RowIndex) (v : Word) : (s.setRow r v).lastValid = s.lastValid :=
  by unfold State.setRow; rfl
@[simp] theorem State.setRow_entCount (s : State) (r : RowIndex) (v : Word) : (s.setRow r v).entCount = s.entCount :=
  by unfold State.setRow; rfl
@[simp] theorem State.setRow_arg0 (s : State) (r : RowIndex) (v : Word) : (s.setRow r v).arg0 = s.arg0 :=
  by unfold State.setRow; rfl
@[simp] theorem State.setRow_arg1 (s : State) (r : RowIndex) (v : Word) : (s.setRow r v).arg1 = s.arg1 :=
  by unfold State.setRow; rfl
@[simp] theorem State.setRow_arg2 (s : State) (r : RowIndex) (v : Word) : (s.setRow r v).arg2 = s.arg2 :=
  by unfold State.setRow; rfl
@[simp] theorem State.setRow_result (s : State) (r : RowIndex) (v : Word) : (s.setRow r v).result = s.result :=
  by unfold State.setRow; rfl
@[simp] theorem State.setRow_raw (s : State) (r : RowIndex) (v : Word) : (s.setRow r v).raw = s.raw :=
  by unfold State.setRow; rfl
@[simp] theorem State.setRow_err (s : State) (r : RowIndex) (v : Word) : (s.setRow r v).err = s.err :=
  by unfold State.setRow; rfl
@[simp] theorem State.setRow_errcode (s : State) (r : RowIndex) (v : Word) : (s.setRow r v).errcode = s.errcode :=
  by unfold State.setRow; rfl
@[simp] theorem State.setRow_inFlight (s : State) (r : RowIndex) (v : Word) : (s.setRow r v).inFlight = s.inFlight :=
  by unfold State.setRow; rfl
@[simp] theorem State.setRow_cfg (s : State) (r : RowIndex) (v : Word) : (s.setRow r v).cfg = s.cfg :=
  by unfold State.setRow; rfl
@[simp] theorem State.setRow_bus (s : State) (r : RowIndex) (v : Word) : (s.setRow r v).bus = s.bus :=
  by unfold State.setRow; rfl
@[simp] theorem State.setRow_rdata (s : State) (r : RowIndex) (v : Word) : (s.setRow r v).rdata = s.rdata :=
  by unfold State.setRow; rfl
@[simp] theorem State.setRow_rpData (s : State) (r : RowIndex) (v : Word) : (s.setRow r v).rpData = s.rpData :=
  by unfold State.setRow; rfl
@[simp] theorem State.setRow_draws (s : State) (r : RowIndex) (v : Word) : (s.setRow r v).draws = s.draws :=
  by unfold State.setRow; rfl

/-! `State.setResult`. -/

@[simp] theorem State.setResult_grid (s : State) (v : Word) : (s.setResult v).grid = s.grid := rfl
@[simp] theorem State.setResult_scratch (s : State) (v : Word) : (s.setResult v).scratch = s.scratch := rfl
@[simp] theorem State.setResult_energy (s : State) (v : Word) : (s.setResult v).energy = s.energy := rfl
@[simp] theorem State.setResult_hist0 (s : State) (v : Word) : (s.setResult v).hist0 = s.hist0 := rfl
@[simp] theorem State.setResult_hist1 (s : State) (v : Word) : (s.setResult v).hist1 = s.hist1 := rfl
@[simp] theorem State.setResult_hist2 (s : State) (v : Word) : (s.setResult v).hist2 = s.hist2 := rfl
@[simp] theorem State.setResult_stagnant (s : State) (v : Word) : (s.setResult v).stagnant = s.stagnant := rfl
@[simp] theorem State.setResult_ps (s : State) (v : Word) : (s.setResult v).ps = s.ps := rfl
@[simp] theorem State.setResult_idx (s : State) (v : Word) : (s.setResult v).idx = s.idx := rfl
@[simp] theorem State.setResult_seeded (s : State) (v : Word) : (s.setResult v).seeded = s.seeded := rfl
@[simp] theorem State.setResult_seedState (s : State) (v : Word) : (s.setResult v).seedState = s.seedState := rfl
@[simp] theorem State.setResult_mode (s : State) (v : Word) : (s.setResult v).mode = s.mode := rfl
@[simp] theorem State.setResult_acc (s : State) (v : Word) : (s.setResult v).acc = s.acc := rfl
@[simp] theorem State.setResult_bitcnt (s : State) (v : Word) : (s.setResult v).bitcnt = s.bitcnt := rfl
@[simp] theorem State.setResult_wordcnt (s : State) (v : Word) : (s.setResult v).wordcnt = s.wordcnt := rfl
@[simp] theorem State.setResult_pairPhase (s : State) (v : Word) : (s.setResult v).pairPhase = s.pairPhase := rfl
@[simp] theorem State.setResult_pairFirst (s : State) (v : Word) : (s.setResult v).pairFirst = s.pairFirst := rfl
@[simp] theorem State.setResult_last (s : State) (v : Word) : (s.setResult v).last = s.last := rfl
@[simp] theorem State.setResult_lastValid (s : State) (v : Word) : (s.setResult v).lastValid = s.lastValid := rfl
@[simp] theorem State.setResult_entCount (s : State) (v : Word) : (s.setResult v).entCount = s.entCount := rfl
@[simp] theorem State.setResult_arg0 (s : State) (v : Word) : (s.setResult v).arg0 = s.arg0 := rfl
@[simp] theorem State.setResult_arg1 (s : State) (v : Word) : (s.setResult v).arg1 = s.arg1 := rfl
@[simp] theorem State.setResult_arg2 (s : State) (v : Word) : (s.setResult v).arg2 = s.arg2 := rfl
@[simp] theorem State.setResult_result (s : State) (v : Word) : (s.setResult v).result = v := rfl
@[simp] theorem State.setResult_raw (s : State) (v : Word) : (s.setResult v).raw = s.raw := rfl
@[simp] theorem State.setResult_err (s : State) (v : Word) : (s.setResult v).err = s.err := rfl
@[simp] theorem State.setResult_errcode (s : State) (v : Word) : (s.setResult v).errcode = s.errcode := rfl
@[simp] theorem State.setResult_inFlight (s : State) (v : Word) : (s.setResult v).inFlight = s.inFlight := rfl
@[simp] theorem State.setResult_cfg (s : State) (v : Word) : (s.setResult v).cfg = s.cfg := rfl
@[simp] theorem State.setResult_bus (s : State) (v : Word) : (s.setResult v).bus = s.bus := rfl
@[simp] theorem State.setResult_rdata (s : State) (v : Word) : (s.setResult v).rdata = s.rdata := rfl
@[simp] theorem State.setResult_rpData (s : State) (v : Word) : (s.setResult v).rpData = s.rpData := rfl
@[simp] theorem State.setResult_draws (s : State) (v : Word) : (s.setResult v).draws = s.draws := rfl

/-! `State.generation`. -/

@[simp] theorem State.generation_grid (s : State) : (s.generation).grid = nextGrid s.grid :=
  by unfold State.generation; rfl
@[simp] theorem State.generation_scratch (s : State) : (s.generation).scratch = s.grid :=
  by unfold State.generation; rfl
@[simp] theorem State.generation_energy (s : State) : (s.generation).energy = s.energy :=
  by unfold State.generation; rfl
@[simp] theorem State.generation_hist0 (s : State) : (s.generation).hist0 = s.hist0 := by unfold State.generation; rfl
@[simp] theorem State.generation_hist1 (s : State) : (s.generation).hist1 = s.hist1 := by unfold State.generation; rfl
@[simp] theorem State.generation_hist2 (s : State) : (s.generation).hist2 = s.hist2 := by unfold State.generation; rfl
@[simp] theorem State.generation_stagnant (s : State) : (s.generation).stagnant = s.stagnant :=
  by unfold State.generation; rfl
@[simp] theorem State.generation_ps (s : State) : (s.generation).ps = s.ps := by unfold State.generation; rfl
@[simp] theorem State.generation_idx (s : State) : (s.generation).idx = s.idx := by unfold State.generation; rfl
@[simp] theorem State.generation_seeded (s : State) : (s.generation).seeded = s.seeded :=
  by unfold State.generation; rfl
@[simp] theorem State.generation_seedState (s : State) : (s.generation).seedState = s.seedState :=
  by unfold State.generation; rfl
@[simp] theorem State.generation_mode (s : State) : (s.generation).mode = s.mode := by unfold State.generation; rfl
@[simp] theorem State.generation_acc (s : State) : (s.generation).acc = s.acc := by unfold State.generation; rfl
@[simp] theorem State.generation_bitcnt (s : State) : (s.generation).bitcnt = s.bitcnt :=
  by unfold State.generation; rfl
@[simp] theorem State.generation_wordcnt (s : State) : (s.generation).wordcnt = s.wordcnt :=
  by unfold State.generation; rfl
@[simp] theorem State.generation_pairPhase (s : State) : (s.generation).pairPhase = s.pairPhase :=
  by unfold State.generation; rfl
@[simp] theorem State.generation_pairFirst (s : State) : (s.generation).pairFirst = s.pairFirst :=
  by unfold State.generation; rfl
@[simp] theorem State.generation_last (s : State) : (s.generation).last = s.last := by unfold State.generation; rfl
@[simp] theorem State.generation_lastValid (s : State) : (s.generation).lastValid = s.lastValid :=
  by unfold State.generation; rfl
@[simp] theorem State.generation_entCount (s : State) : (s.generation).entCount = s.entCount :=
  by unfold State.generation; rfl
@[simp] theorem State.generation_arg0 (s : State) : (s.generation).arg0 = s.arg0 := by unfold State.generation; rfl
@[simp] theorem State.generation_arg1 (s : State) : (s.generation).arg1 = s.arg1 := by unfold State.generation; rfl
@[simp] theorem State.generation_arg2 (s : State) : (s.generation).arg2 = s.arg2 := by unfold State.generation; rfl
@[simp] theorem State.generation_result (s : State) : (s.generation).result = s.result :=
  by unfold State.generation; rfl
@[simp] theorem State.generation_raw (s : State) : (s.generation).raw = s.raw := by unfold State.generation; rfl
@[simp] theorem State.generation_err (s : State) : (s.generation).err = s.err := by unfold State.generation; rfl
@[simp] theorem State.generation_errcode (s : State) : (s.generation).errcode = s.errcode :=
  by unfold State.generation; rfl
@[simp] theorem State.generation_inFlight (s : State) : (s.generation).inFlight = s.inFlight :=
  by unfold State.generation; rfl
@[simp] theorem State.generation_cfg (s : State) : (s.generation).cfg = s.cfg := by unfold State.generation; rfl
@[simp] theorem State.generation_bus (s : State) : (s.generation).bus = s.bus := by unfold State.generation; rfl
@[simp] theorem State.generation_rdata (s : State) : (s.generation).rdata = s.rdata := by unfold State.generation; rfl
@[simp] theorem State.generation_rpData (s : State) : (s.generation).rpData = s.rpData :=
  by unfold State.generation; rfl
@[simp] theorem State.generation_draws (s : State) : (s.generation).draws = s.draws := by unfold State.generation; rfl

/-! `State.bookkeep`. -/

@[simp] theorem State.bookkeep_grid (s : State) (c : Word) : (s.bookkeep c).grid = s.grid :=
  by unfold State.bookkeep; rfl
@[simp] theorem State.bookkeep_scratch (s : State) (c : Word) : (s.bookkeep c).scratch = s.scratch :=
  by unfold State.bookkeep; rfl
@[simp] theorem State.bookkeep_energy (s : State) (c : Word) : (s.bookkeep c).energy = energyAfter (stagnation c s.hist0 s.hist1 s.hist2) s.energy :=
  by unfold State.bookkeep; rfl
@[simp] theorem State.bookkeep_hist0 (s : State) (c : Word) : (s.bookkeep c).hist0 = c :=
  by unfold State.bookkeep; rfl
@[simp] theorem State.bookkeep_hist1 (s : State) (c : Word) : (s.bookkeep c).hist1 = s.hist0 :=
  by unfold State.bookkeep; rfl
@[simp] theorem State.bookkeep_hist2 (s : State) (c : Word) : (s.bookkeep c).hist2 = s.hist1 :=
  by unfold State.bookkeep; rfl
@[simp] theorem State.bookkeep_stagnant (s : State) (c : Word) : (s.bookkeep c).stagnant = stagnation c s.hist0 s.hist1 s.hist2 :=
  by unfold State.bookkeep; rfl
@[simp] theorem State.bookkeep_ps (s : State) (c : Word) : (s.bookkeep c).ps = s.ps := by unfold State.bookkeep; rfl
@[simp] theorem State.bookkeep_idx (s : State) (c : Word) : (s.bookkeep c).idx = s.idx :=
  by unfold State.bookkeep; rfl
@[simp] theorem State.bookkeep_seeded (s : State) (c : Word) : (s.bookkeep c).seeded = s.seeded :=
  by unfold State.bookkeep; rfl
@[simp] theorem State.bookkeep_seedState (s : State) (c : Word) : (s.bookkeep c).seedState = s.seedState :=
  by unfold State.bookkeep; rfl
@[simp] theorem State.bookkeep_mode (s : State) (c : Word) : (s.bookkeep c).mode = s.mode :=
  by unfold State.bookkeep; rfl
@[simp] theorem State.bookkeep_acc (s : State) (c : Word) : (s.bookkeep c).acc = s.acc :=
  by unfold State.bookkeep; rfl
@[simp] theorem State.bookkeep_bitcnt (s : State) (c : Word) : (s.bookkeep c).bitcnt = s.bitcnt :=
  by unfold State.bookkeep; rfl
@[simp] theorem State.bookkeep_wordcnt (s : State) (c : Word) : (s.bookkeep c).wordcnt = s.wordcnt :=
  by unfold State.bookkeep; rfl
@[simp] theorem State.bookkeep_pairPhase (s : State) (c : Word) : (s.bookkeep c).pairPhase = s.pairPhase :=
  by unfold State.bookkeep; rfl
@[simp] theorem State.bookkeep_pairFirst (s : State) (c : Word) : (s.bookkeep c).pairFirst = s.pairFirst :=
  by unfold State.bookkeep; rfl
@[simp] theorem State.bookkeep_last (s : State) (c : Word) : (s.bookkeep c).last = s.last :=
  by unfold State.bookkeep; rfl
@[simp] theorem State.bookkeep_lastValid (s : State) (c : Word) : (s.bookkeep c).lastValid = s.lastValid :=
  by unfold State.bookkeep; rfl
@[simp] theorem State.bookkeep_entCount (s : State) (c : Word) : (s.bookkeep c).entCount = s.entCount :=
  by unfold State.bookkeep; rfl
@[simp] theorem State.bookkeep_arg0 (s : State) (c : Word) : (s.bookkeep c).arg0 = s.arg0 :=
  by unfold State.bookkeep; rfl
@[simp] theorem State.bookkeep_arg1 (s : State) (c : Word) : (s.bookkeep c).arg1 = s.arg1 :=
  by unfold State.bookkeep; rfl
@[simp] theorem State.bookkeep_arg2 (s : State) (c : Word) : (s.bookkeep c).arg2 = s.arg2 :=
  by unfold State.bookkeep; rfl
@[simp] theorem State.bookkeep_result (s : State) (c : Word) : (s.bookkeep c).result = c :=
  by unfold State.bookkeep; rfl
@[simp] theorem State.bookkeep_raw (s : State) (c : Word) : (s.bookkeep c).raw = s.raw :=
  by unfold State.bookkeep; rfl
@[simp] theorem State.bookkeep_err (s : State) (c : Word) : (s.bookkeep c).err = s.err :=
  by unfold State.bookkeep; rfl
@[simp] theorem State.bookkeep_errcode (s : State) (c : Word) : (s.bookkeep c).errcode = s.errcode :=
  by unfold State.bookkeep; rfl
@[simp] theorem State.bookkeep_inFlight (s : State) (c : Word) : (s.bookkeep c).inFlight = s.inFlight :=
  by unfold State.bookkeep; rfl
@[simp] theorem State.bookkeep_cfg (s : State) (c : Word) : (s.bookkeep c).cfg = s.cfg :=
  by unfold State.bookkeep; rfl
@[simp] theorem State.bookkeep_bus (s : State) (c : Word) : (s.bookkeep c).bus = s.bus :=
  by unfold State.bookkeep; rfl
@[simp] theorem State.bookkeep_rdata (s : State) (c : Word) : (s.bookkeep c).rdata = s.rdata :=
  by unfold State.bookkeep; rfl
@[simp] theorem State.bookkeep_rpData (s : State) (c : Word) : (s.bookkeep c).rpData = s.rpData :=
  by unfold State.bookkeep; rfl
@[simp] theorem State.bookkeep_draws (s : State) (c : Word) : (s.bookkeep c).draws = s.draws :=
  by unfold State.bookkeep; rfl

/-! `State.draw`. -/

@[simp] theorem State.draw_grid (s : State) : (s.draw).grid = s.grid := by unfold State.draw; rfl
@[simp] theorem State.draw_scratch (s : State) : (s.draw).scratch = s.scratch := by unfold State.draw; rfl
@[simp] theorem State.draw_energy (s : State) : (s.draw).energy = s.energy := by unfold State.draw; rfl
@[simp] theorem State.draw_hist0 (s : State) : (s.draw).hist0 = s.hist0 := by unfold State.draw; rfl
@[simp] theorem State.draw_hist1 (s : State) : (s.draw).hist1 = s.hist1 := by unfold State.draw; rfl
@[simp] theorem State.draw_hist2 (s : State) : (s.draw).hist2 = s.hist2 := by unfold State.draw; rfl
@[simp] theorem State.draw_stagnant (s : State) : (s.draw).stagnant = s.stagnant := by unfold State.draw; rfl
@[simp] theorem State.draw_ps (s : State) : (s.draw).ps = (wellStep s.ps s.idx).1 := by unfold State.draw; rfl
@[simp] theorem State.draw_idx (s : State) : (s.draw).idx = (wellStep s.ps s.idx).2 := by unfold State.draw; rfl
@[simp] theorem State.draw_seeded (s : State) : (s.draw).seeded = s.seeded := by unfold State.draw; rfl
@[simp] theorem State.draw_seedState (s : State) : (s.draw).seedState = s.seedState := by unfold State.draw; rfl
@[simp] theorem State.draw_mode (s : State) : (s.draw).mode = s.mode := by unfold State.draw; rfl
@[simp] theorem State.draw_acc (s : State) : (s.draw).acc = s.acc := by unfold State.draw; rfl
@[simp] theorem State.draw_bitcnt (s : State) : (s.draw).bitcnt = s.bitcnt := by unfold State.draw; rfl
@[simp] theorem State.draw_wordcnt (s : State) : (s.draw).wordcnt = s.wordcnt := by unfold State.draw; rfl
@[simp] theorem State.draw_pairPhase (s : State) : (s.draw).pairPhase = s.pairPhase := by unfold State.draw; rfl
@[simp] theorem State.draw_pairFirst (s : State) : (s.draw).pairFirst = s.pairFirst := by unfold State.draw; rfl
@[simp] theorem State.draw_last (s : State) : (s.draw).last = s.last := by unfold State.draw; rfl
@[simp] theorem State.draw_lastValid (s : State) : (s.draw).lastValid = s.lastValid := by unfold State.draw; rfl
@[simp] theorem State.draw_entCount (s : State) : (s.draw).entCount = s.entCount := by unfold State.draw; rfl
@[simp] theorem State.draw_arg0 (s : State) : (s.draw).arg0 = s.arg0 := by unfold State.draw; rfl
@[simp] theorem State.draw_arg1 (s : State) : (s.draw).arg1 = s.arg1 := by unfold State.draw; rfl
@[simp] theorem State.draw_arg2 (s : State) : (s.draw).arg2 = s.arg2 := by unfold State.draw; rfl
@[simp] theorem State.draw_result (s : State) : (s.draw).result = s.result := by unfold State.draw; rfl
@[simp] theorem State.draw_raw (s : State) : (s.draw).raw = s.raw := by unfold State.draw; rfl
@[simp] theorem State.draw_err (s : State) : (s.draw).err = s.err := by unfold State.draw; rfl
@[simp] theorem State.draw_errcode (s : State) : (s.draw).errcode = s.errcode := by unfold State.draw; rfl
@[simp] theorem State.draw_inFlight (s : State) : (s.draw).inFlight = s.inFlight := by unfold State.draw; rfl
@[simp] theorem State.draw_cfg (s : State) : (s.draw).cfg = s.cfg := by unfold State.draw; rfl
@[simp] theorem State.draw_bus (s : State) : (s.draw).bus = s.bus := by unfold State.draw; rfl
@[simp] theorem State.draw_rdata (s : State) : (s.draw).rdata = s.rdata := by unfold State.draw; rfl
@[simp] theorem State.draw_rpData (s : State) : (s.draw).rpData = s.rpData := by unfold State.draw; rfl
@[simp] theorem State.draw_draws (s : State) : (s.draw).draws = s.draws := by unfold State.draw; rfl

/-! `State.clearAccumulator`. -/

@[simp] theorem State.clearAccumulator_grid (s : State) : (s.clearAccumulator).grid = s.grid := rfl
@[simp] theorem State.clearAccumulator_scratch (s : State) : (s.clearAccumulator).scratch = s.scratch := rfl
@[simp] theorem State.clearAccumulator_energy (s : State) : (s.clearAccumulator).energy = s.energy := rfl
@[simp] theorem State.clearAccumulator_hist0 (s : State) : (s.clearAccumulator).hist0 = s.hist0 := rfl
@[simp] theorem State.clearAccumulator_hist1 (s : State) : (s.clearAccumulator).hist1 = s.hist1 := rfl
@[simp] theorem State.clearAccumulator_hist2 (s : State) : (s.clearAccumulator).hist2 = s.hist2 := rfl
@[simp] theorem State.clearAccumulator_stagnant (s : State) : (s.clearAccumulator).stagnant = s.stagnant := rfl
@[simp] theorem State.clearAccumulator_ps (s : State) : (s.clearAccumulator).ps = s.ps := rfl
@[simp] theorem State.clearAccumulator_idx (s : State) : (s.clearAccumulator).idx = s.idx := rfl
@[simp] theorem State.clearAccumulator_seeded (s : State) : (s.clearAccumulator).seeded = s.seeded := rfl
@[simp] theorem State.clearAccumulator_seedState (s : State) : (s.clearAccumulator).seedState = s.seedState := rfl
@[simp] theorem State.clearAccumulator_mode (s : State) : (s.clearAccumulator).mode = s.mode := rfl
@[simp] theorem State.clearAccumulator_acc (s : State) : (s.clearAccumulator).acc = 0 := rfl
@[simp] theorem State.clearAccumulator_bitcnt (s : State) : (s.clearAccumulator).bitcnt = 0 := rfl
@[simp] theorem State.clearAccumulator_wordcnt (s : State) : (s.clearAccumulator).wordcnt = s.wordcnt := rfl
@[simp] theorem State.clearAccumulator_pairPhase (s : State) : (s.clearAccumulator).pairPhase = false := rfl
@[simp] theorem State.clearAccumulator_pairFirst (s : State) : (s.clearAccumulator).pairFirst = false := rfl
@[simp] theorem State.clearAccumulator_last (s : State) : (s.clearAccumulator).last = 0 := rfl
@[simp] theorem State.clearAccumulator_lastValid (s : State) : (s.clearAccumulator).lastValid = false := rfl
@[simp] theorem State.clearAccumulator_entCount (s : State) : (s.clearAccumulator).entCount = s.entCount := rfl
@[simp] theorem State.clearAccumulator_arg0 (s : State) : (s.clearAccumulator).arg0 = s.arg0 := rfl
@[simp] theorem State.clearAccumulator_arg1 (s : State) : (s.clearAccumulator).arg1 = s.arg1 := rfl
@[simp] theorem State.clearAccumulator_arg2 (s : State) : (s.clearAccumulator).arg2 = s.arg2 := rfl
@[simp] theorem State.clearAccumulator_result (s : State) : (s.clearAccumulator).result = s.result := rfl
@[simp] theorem State.clearAccumulator_raw (s : State) : (s.clearAccumulator).raw = s.raw := rfl
@[simp] theorem State.clearAccumulator_err (s : State) : (s.clearAccumulator).err = s.err := rfl
@[simp] theorem State.clearAccumulator_errcode (s : State) : (s.clearAccumulator).errcode = s.errcode := rfl
@[simp] theorem State.clearAccumulator_inFlight (s : State) : (s.clearAccumulator).inFlight = s.inFlight := rfl
@[simp] theorem State.clearAccumulator_cfg (s : State) : (s.clearAccumulator).cfg = s.cfg := rfl
@[simp] theorem State.clearAccumulator_bus (s : State) : (s.clearAccumulator).bus = s.bus := rfl
@[simp] theorem State.clearAccumulator_rdata (s : State) : (s.clearAccumulator).rdata = s.rdata := rfl
@[simp] theorem State.clearAccumulator_rpData (s : State) : (s.clearAccumulator).rpData = s.rpData := rfl
@[simp] theorem State.clearAccumulator_draws (s : State) : (s.clearAccumulator).draws = s.draws := rfl

/-! `State.finishSeeding`. -/

@[simp] theorem State.finishSeeding_grid (s : State) : (s.finishSeeding).grid = s.grid := rfl
@[simp] theorem State.finishSeeding_scratch (s : State) : (s.finishSeeding).scratch = s.scratch := rfl
@[simp] theorem State.finishSeeding_energy (s : State) : (s.finishSeeding).energy = s.energy := rfl
@[simp] theorem State.finishSeeding_hist0 (s : State) : (s.finishSeeding).hist0 = s.hist0 := rfl
@[simp] theorem State.finishSeeding_hist1 (s : State) : (s.finishSeeding).hist1 = s.hist1 := rfl
@[simp] theorem State.finishSeeding_hist2 (s : State) : (s.finishSeeding).hist2 = s.hist2 := rfl
@[simp] theorem State.finishSeeding_stagnant (s : State) : (s.finishSeeding).stagnant = s.stagnant := rfl
@[simp] theorem State.finishSeeding_ps (s : State) : (s.finishSeeding).ps = s.ps := rfl
@[simp] theorem State.finishSeeding_idx (s : State) : (s.finishSeeding).idx = 0 := rfl
@[simp] theorem State.finishSeeding_seeded (s : State) : (s.finishSeeding).seeded = true := rfl
@[simp] theorem State.finishSeeding_seedState (s : State) : (s.finishSeeding).seedState = .done := rfl
@[simp] theorem State.finishSeeding_mode (s : State) : (s.finishSeeding).mode = s.mode := rfl
@[simp] theorem State.finishSeeding_acc (s : State) : (s.finishSeeding).acc = 0 := rfl
@[simp] theorem State.finishSeeding_bitcnt (s : State) : (s.finishSeeding).bitcnt = 0 := rfl
@[simp] theorem State.finishSeeding_wordcnt (s : State) : (s.finishSeeding).wordcnt = s.wordcnt := rfl
@[simp] theorem State.finishSeeding_pairPhase (s : State) : (s.finishSeeding).pairPhase = false := rfl
@[simp] theorem State.finishSeeding_pairFirst (s : State) : (s.finishSeeding).pairFirst = false := rfl
@[simp] theorem State.finishSeeding_last (s : State) : (s.finishSeeding).last = 0 := rfl
@[simp] theorem State.finishSeeding_lastValid (s : State) : (s.finishSeeding).lastValid = false := rfl
@[simp] theorem State.finishSeeding_entCount (s : State) : (s.finishSeeding).entCount = s.entCount := rfl
@[simp] theorem State.finishSeeding_arg0 (s : State) : (s.finishSeeding).arg0 = s.arg0 := rfl
@[simp] theorem State.finishSeeding_arg1 (s : State) : (s.finishSeeding).arg1 = s.arg1 := rfl
@[simp] theorem State.finishSeeding_arg2 (s : State) : (s.finishSeeding).arg2 = s.arg2 := rfl
@[simp] theorem State.finishSeeding_result (s : State) : (s.finishSeeding).result = s.result := rfl
@[simp] theorem State.finishSeeding_raw (s : State) : (s.finishSeeding).raw = s.raw := rfl
@[simp] theorem State.finishSeeding_err (s : State) : (s.finishSeeding).err = s.err := rfl
@[simp] theorem State.finishSeeding_errcode (s : State) : (s.finishSeeding).errcode = s.errcode := rfl
@[simp] theorem State.finishSeeding_inFlight (s : State) : (s.finishSeeding).inFlight = s.inFlight := rfl
@[simp] theorem State.finishSeeding_cfg (s : State) : (s.finishSeeding).cfg = s.cfg := rfl
@[simp] theorem State.finishSeeding_bus (s : State) : (s.finishSeeding).bus = s.bus := rfl
@[simp] theorem State.finishSeeding_rdata (s : State) : (s.finishSeeding).rdata = s.rdata := rfl
@[simp] theorem State.finishSeeding_rpData (s : State) : (s.finishSeeding).rpData = s.rpData := rfl
@[simp] theorem State.finishSeeding_draws (s : State) : (s.finishSeeding).draws = s.draws := rfl

/-! `State.completeWord`. -/

@[simp] theorem State.completeWord_grid (s : State) : (s.completeWord).grid = s.grid :=
  by simp only [State.completeWord]; split <;> simp
@[simp] theorem State.completeWord_scratch (s : State) : (s.completeWord).scratch = s.scratch :=
  by simp only [State.completeWord]; split <;> simp
@[simp] theorem State.completeWord_energy (s : State) : (s.completeWord).energy = s.energy :=
  by simp only [State.completeWord]; split <;> simp
@[simp] theorem State.completeWord_hist0 (s : State) : (s.completeWord).hist0 = s.hist0 :=
  by simp only [State.completeWord]; split <;> simp
@[simp] theorem State.completeWord_hist1 (s : State) : (s.completeWord).hist1 = s.hist1 :=
  by simp only [State.completeWord]; split <;> simp
@[simp] theorem State.completeWord_hist2 (s : State) : (s.completeWord).hist2 = s.hist2 :=
  by simp only [State.completeWord]; split <;> simp
@[simp] theorem State.completeWord_stagnant (s : State) : (s.completeWord).stagnant = s.stagnant :=
  by simp only [State.completeWord]; split <;> simp
@[simp] theorem State.completeWord_ps (s : State) : (s.completeWord).ps = s.ps.setIfInBounds s.wordcnt.toNat s.acc :=
  by simp only [State.completeWord]; split <;> simp
@[simp] theorem State.completeWord_mode (s : State) : (s.completeWord).mode = s.mode :=
  by simp only [State.completeWord]; split <;> simp
@[simp] theorem State.completeWord_acc (s : State) : (s.completeWord).acc = 0 :=
  by simp only [State.completeWord]; split <;> simp
@[simp] theorem State.completeWord_bitcnt (s : State) : (s.completeWord).bitcnt = 0 :=
  by simp only [State.completeWord]; split <;> simp
@[simp] theorem State.completeWord_wordcnt (s : State) : (s.completeWord).wordcnt = s.wordcnt + 1 :=
  by simp only [State.completeWord]; split <;> simp
@[simp] theorem State.completeWord_entCount (s : State) : (s.completeWord).entCount = s.entCount :=
  by simp only [State.completeWord]; split <;> simp
@[simp] theorem State.completeWord_arg0 (s : State) : (s.completeWord).arg0 = s.arg0 :=
  by simp only [State.completeWord]; split <;> simp
@[simp] theorem State.completeWord_arg1 (s : State) : (s.completeWord).arg1 = s.arg1 :=
  by simp only [State.completeWord]; split <;> simp
@[simp] theorem State.completeWord_arg2 (s : State) : (s.completeWord).arg2 = s.arg2 :=
  by simp only [State.completeWord]; split <;> simp
@[simp] theorem State.completeWord_result (s : State) : (s.completeWord).result = s.result :=
  by simp only [State.completeWord]; split <;> simp
@[simp] theorem State.completeWord_raw (s : State) : (s.completeWord).raw = s.raw :=
  by simp only [State.completeWord]; split <;> simp
@[simp] theorem State.completeWord_err (s : State) : (s.completeWord).err = s.err :=
  by simp only [State.completeWord]; split <;> simp
@[simp] theorem State.completeWord_errcode (s : State) : (s.completeWord).errcode = s.errcode :=
  by simp only [State.completeWord]; split <;> simp
@[simp] theorem State.completeWord_inFlight (s : State) : (s.completeWord).inFlight = s.inFlight :=
  by simp only [State.completeWord]; split <;> simp
@[simp] theorem State.completeWord_cfg (s : State) : (s.completeWord).cfg = s.cfg :=
  by simp only [State.completeWord]; split <;> simp
@[simp] theorem State.completeWord_bus (s : State) : (s.completeWord).bus = s.bus :=
  by simp only [State.completeWord]; split <;> simp
@[simp] theorem State.completeWord_rdata (s : State) : (s.completeWord).rdata = s.rdata :=
  by simp only [State.completeWord]; split <;> simp
@[simp] theorem State.completeWord_rpData (s : State) : (s.completeWord).rpData = s.rpData :=
  by simp only [State.completeWord]; split <;> simp
@[simp] theorem State.completeWord_draws (s : State) : (s.completeWord).draws = s.draws :=
  by simp only [State.completeWord]; split <;> simp

/-! `State.emit`. -/

@[simp] theorem State.emit_grid (s : State) (b : Bool) : (s.emit b).grid = s.grid :=
  by simp only [State.emit]; split <;> simp
@[simp] theorem State.emit_scratch (s : State) (b : Bool) : (s.emit b).scratch = s.scratch :=
  by simp only [State.emit]; split <;> simp
@[simp] theorem State.emit_energy (s : State) (b : Bool) : (s.emit b).energy = s.energy :=
  by simp only [State.emit]; split <;> simp
@[simp] theorem State.emit_hist0 (s : State) (b : Bool) : (s.emit b).hist0 = s.hist0 :=
  by simp only [State.emit]; split <;> simp
@[simp] theorem State.emit_hist1 (s : State) (b : Bool) : (s.emit b).hist1 = s.hist1 :=
  by simp only [State.emit]; split <;> simp
@[simp] theorem State.emit_hist2 (s : State) (b : Bool) : (s.emit b).hist2 = s.hist2 :=
  by simp only [State.emit]; split <;> simp
@[simp] theorem State.emit_stagnant (s : State) (b : Bool) : (s.emit b).stagnant = s.stagnant :=
  by simp only [State.emit]; split <;> simp
@[simp] theorem State.emit_mode (s : State) (b : Bool) : (s.emit b).mode = s.mode :=
  by simp only [State.emit]; split <;> simp
@[simp] theorem State.emit_entCount (s : State) (b : Bool) : (s.emit b).entCount = s.entCount :=
  by simp only [State.emit]; split <;> simp
@[simp] theorem State.emit_arg0 (s : State) (b : Bool) : (s.emit b).arg0 = s.arg0 :=
  by simp only [State.emit]; split <;> simp
@[simp] theorem State.emit_arg1 (s : State) (b : Bool) : (s.emit b).arg1 = s.arg1 :=
  by simp only [State.emit]; split <;> simp
@[simp] theorem State.emit_arg2 (s : State) (b : Bool) : (s.emit b).arg2 = s.arg2 :=
  by simp only [State.emit]; split <;> simp
@[simp] theorem State.emit_result (s : State) (b : Bool) : (s.emit b).result = s.result :=
  by simp only [State.emit]; split <;> simp
@[simp] theorem State.emit_raw (s : State) (b : Bool) : (s.emit b).raw = s.raw :=
  by simp only [State.emit]; split <;> simp
@[simp] theorem State.emit_err (s : State) (b : Bool) : (s.emit b).err = s.err :=
  by simp only [State.emit]; split <;> simp
@[simp] theorem State.emit_errcode (s : State) (b : Bool) : (s.emit b).errcode = s.errcode :=
  by simp only [State.emit]; split <;> simp
@[simp] theorem State.emit_inFlight (s : State) (b : Bool) : (s.emit b).inFlight = s.inFlight :=
  by simp only [State.emit]; split <;> simp
@[simp] theorem State.emit_cfg (s : State) (b : Bool) : (s.emit b).cfg = s.cfg :=
  by simp only [State.emit]; split <;> simp
@[simp] theorem State.emit_bus (s : State) (b : Bool) : (s.emit b).bus = s.bus :=
  by simp only [State.emit]; split <;> simp
@[simp] theorem State.emit_rdata (s : State) (b : Bool) : (s.emit b).rdata = s.rdata :=
  by simp only [State.emit]; split <;> simp
@[simp] theorem State.emit_rpData (s : State) (b : Bool) : (s.emit b).rpData = s.rpData :=
  by simp only [State.emit]; split <;> simp
@[simp] theorem State.emit_draws (s : State) (b : Bool) : (s.emit b).draws = s.draws :=
  by simp only [State.emit]; split <;> simp

/-! `State.takeRawBit`. -/

@[simp] theorem State.takeRawBit_grid (s : State) (r : Bool) : (s.takeRawBit r).grid = s.grid :=
  by simp only [State.takeRawBit]; split <;> (try split) <;> (try split) <;> simp
@[simp] theorem State.takeRawBit_scratch (s : State) (r : Bool) : (s.takeRawBit r).scratch = s.scratch :=
  by simp only [State.takeRawBit]; split <;> (try split) <;> (try split) <;> simp
@[simp] theorem State.takeRawBit_energy (s : State) (r : Bool) : (s.takeRawBit r).energy = s.energy :=
  by simp only [State.takeRawBit]; split <;> (try split) <;> (try split) <;> simp
@[simp] theorem State.takeRawBit_hist0 (s : State) (r : Bool) : (s.takeRawBit r).hist0 = s.hist0 :=
  by simp only [State.takeRawBit]; split <;> (try split) <;> (try split) <;> simp
@[simp] theorem State.takeRawBit_hist1 (s : State) (r : Bool) : (s.takeRawBit r).hist1 = s.hist1 :=
  by simp only [State.takeRawBit]; split <;> (try split) <;> (try split) <;> simp
@[simp] theorem State.takeRawBit_hist2 (s : State) (r : Bool) : (s.takeRawBit r).hist2 = s.hist2 :=
  by simp only [State.takeRawBit]; split <;> (try split) <;> (try split) <;> simp
@[simp] theorem State.takeRawBit_stagnant (s : State) (r : Bool) : (s.takeRawBit r).stagnant = s.stagnant :=
  by simp only [State.takeRawBit]; split <;> (try split) <;> (try split) <;> simp
@[simp] theorem State.takeRawBit_mode (s : State) (r : Bool) : (s.takeRawBit r).mode = s.mode :=
  by simp only [State.takeRawBit]; split <;> (try split) <;> (try split) <;> simp
@[simp] theorem State.takeRawBit_entCount (s : State) (r : Bool) : (s.takeRawBit r).entCount = s.entCount :=
  by simp only [State.takeRawBit]; split <;> (try split) <;> (try split) <;> simp
@[simp] theorem State.takeRawBit_arg0 (s : State) (r : Bool) : (s.takeRawBit r).arg0 = s.arg0 :=
  by simp only [State.takeRawBit]; split <;> (try split) <;> (try split) <;> simp
@[simp] theorem State.takeRawBit_arg1 (s : State) (r : Bool) : (s.takeRawBit r).arg1 = s.arg1 :=
  by simp only [State.takeRawBit]; split <;> (try split) <;> (try split) <;> simp
@[simp] theorem State.takeRawBit_arg2 (s : State) (r : Bool) : (s.takeRawBit r).arg2 = s.arg2 :=
  by simp only [State.takeRawBit]; split <;> (try split) <;> (try split) <;> simp
@[simp] theorem State.takeRawBit_result (s : State) (r : Bool) : (s.takeRawBit r).result = s.result :=
  by simp only [State.takeRawBit]; split <;> (try split) <;> (try split) <;> simp
@[simp] theorem State.takeRawBit_raw (s : State) (r : Bool) : (s.takeRawBit r).raw = s.raw :=
  by simp only [State.takeRawBit]; split <;> (try split) <;> (try split) <;> simp
@[simp] theorem State.takeRawBit_err (s : State) (r : Bool) : (s.takeRawBit r).err = s.err :=
  by simp only [State.takeRawBit]; split <;> (try split) <;> (try split) <;> simp
@[simp] theorem State.takeRawBit_errcode (s : State) (r : Bool) : (s.takeRawBit r).errcode = s.errcode :=
  by simp only [State.takeRawBit]; split <;> (try split) <;> (try split) <;> simp
@[simp] theorem State.takeRawBit_inFlight (s : State) (r : Bool) : (s.takeRawBit r).inFlight = s.inFlight :=
  by simp only [State.takeRawBit]; split <;> (try split) <;> (try split) <;> simp
@[simp] theorem State.takeRawBit_cfg (s : State) (r : Bool) : (s.takeRawBit r).cfg = s.cfg :=
  by simp only [State.takeRawBit]; split <;> (try split) <;> (try split) <;> simp
@[simp] theorem State.takeRawBit_bus (s : State) (r : Bool) : (s.takeRawBit r).bus = s.bus :=
  by simp only [State.takeRawBit]; split <;> (try split) <;> (try split) <;> simp
@[simp] theorem State.takeRawBit_rdata (s : State) (r : Bool) : (s.takeRawBit r).rdata = s.rdata :=
  by simp only [State.takeRawBit]; split <;> (try split) <;> (try split) <;> simp
@[simp] theorem State.takeRawBit_rpData (s : State) (r : Bool) : (s.takeRawBit r).rpData = s.rpData :=
  by simp only [State.takeRawBit]; split <;> (try split) <;> (try split) <;> simp
@[simp] theorem State.takeRawBit_draws (s : State) (r : Bool) : (s.takeRawBit r).draws = s.draws :=
  by simp only [State.takeRawBit]; split <;> (try split) <;> (try split) <;> simp

/-! `State.resetPin`. -/

@[simp] theorem State.resetPin_grid (s : State) : (s.resetPin).grid = (State.resetWith s.cfg).grid :=
  by unfold State.resetPin; rfl
@[simp] theorem State.resetPin_scratch (s : State) : (s.resetPin).scratch = (State.resetWith s.cfg).scratch :=
  by unfold State.resetPin; rfl
@[simp] theorem State.resetPin_energy (s : State) : (s.resetPin).energy = (State.resetWith s.cfg).energy :=
  by unfold State.resetPin; rfl
@[simp] theorem State.resetPin_hist0 (s : State) : (s.resetPin).hist0 = (State.resetWith s.cfg).hist0 :=
  by unfold State.resetPin; rfl
@[simp] theorem State.resetPin_hist1 (s : State) : (s.resetPin).hist1 = (State.resetWith s.cfg).hist1 :=
  by unfold State.resetPin; rfl
@[simp] theorem State.resetPin_hist2 (s : State) : (s.resetPin).hist2 = (State.resetWith s.cfg).hist2 :=
  by unfold State.resetPin; rfl
@[simp] theorem State.resetPin_stagnant (s : State) : (s.resetPin).stagnant = (State.resetWith s.cfg).stagnant :=
  by unfold State.resetPin; rfl
@[simp] theorem State.resetPin_ps (s : State) : (s.resetPin).ps = (State.resetWith s.cfg).ps :=
  by unfold State.resetPin; rfl
@[simp] theorem State.resetPin_idx (s : State) : (s.resetPin).idx = (State.resetWith s.cfg).idx :=
  by unfold State.resetPin; rfl
@[simp] theorem State.resetPin_seeded (s : State) : (s.resetPin).seeded = (State.resetWith s.cfg).seeded :=
  by unfold State.resetPin; rfl
@[simp] theorem State.resetPin_seedState (s : State) : (s.resetPin).seedState = (State.resetWith s.cfg).seedState :=
  by unfold State.resetPin; rfl
@[simp] theorem State.resetPin_mode (s : State) : (s.resetPin).mode = (State.resetWith s.cfg).mode :=
  by unfold State.resetPin; rfl
@[simp] theorem State.resetPin_acc (s : State) : (s.resetPin).acc = (State.resetWith s.cfg).acc :=
  by unfold State.resetPin; rfl
@[simp] theorem State.resetPin_bitcnt (s : State) : (s.resetPin).bitcnt = (State.resetWith s.cfg).bitcnt :=
  by unfold State.resetPin; rfl
@[simp] theorem State.resetPin_wordcnt (s : State) : (s.resetPin).wordcnt = (State.resetWith s.cfg).wordcnt :=
  by unfold State.resetPin; rfl
@[simp] theorem State.resetPin_pairPhase (s : State) : (s.resetPin).pairPhase = (State.resetWith s.cfg).pairPhase :=
  by unfold State.resetPin; rfl
@[simp] theorem State.resetPin_pairFirst (s : State) : (s.resetPin).pairFirst = (State.resetWith s.cfg).pairFirst :=
  by unfold State.resetPin; rfl
@[simp] theorem State.resetPin_last (s : State) : (s.resetPin).last = (State.resetWith s.cfg).last :=
  by unfold State.resetPin; rfl
@[simp] theorem State.resetPin_lastValid (s : State) : (s.resetPin).lastValid = (State.resetWith s.cfg).lastValid :=
  by unfold State.resetPin; rfl
@[simp] theorem State.resetPin_entCount (s : State) : (s.resetPin).entCount = (State.resetWith s.cfg).entCount :=
  by unfold State.resetPin; rfl
@[simp] theorem State.resetPin_arg0 (s : State) : (s.resetPin).arg0 = (State.resetWith s.cfg).arg0 :=
  by unfold State.resetPin; rfl
@[simp] theorem State.resetPin_arg1 (s : State) : (s.resetPin).arg1 = (State.resetWith s.cfg).arg1 :=
  by unfold State.resetPin; rfl
@[simp] theorem State.resetPin_arg2 (s : State) : (s.resetPin).arg2 = (State.resetWith s.cfg).arg2 :=
  by unfold State.resetPin; rfl
@[simp] theorem State.resetPin_result (s : State) : (s.resetPin).result = (State.resetWith s.cfg).result :=
  by unfold State.resetPin; rfl
@[simp] theorem State.resetPin_raw (s : State) : (s.resetPin).raw = (State.resetWith s.cfg).raw :=
  by unfold State.resetPin; rfl
@[simp] theorem State.resetPin_err (s : State) : (s.resetPin).err = (State.resetWith s.cfg).err :=
  by unfold State.resetPin; rfl
@[simp] theorem State.resetPin_errcode (s : State) : (s.resetPin).errcode = (State.resetWith s.cfg).errcode :=
  by unfold State.resetPin; rfl
@[simp] theorem State.resetPin_inFlight (s : State) : (s.resetPin).inFlight = (State.resetWith s.cfg).inFlight :=
  by unfold State.resetPin; rfl
@[simp] theorem State.resetPin_cfg (s : State) : (s.resetPin).cfg = s.cfg := by unfold State.resetPin; rfl
@[simp] theorem State.resetPin_bus (s : State) : (s.resetPin).bus = s.bus := by unfold State.resetPin; rfl
@[simp] theorem State.resetPin_rdata (s : State) : (s.resetPin).rdata = s.rdata := by unfold State.resetPin; rfl
@[simp] theorem State.resetPin_rpData (s : State) : (s.resetPin).rpData = s.rpData := by unfold State.resetPin; rfl
@[simp] theorem State.resetPin_draws (s : State) : (s.resetPin).draws = s.draws := by unfold State.resetPin; rfl

/-- What is busy is a command in flight. -/
@[simp] theorem State.busy_iff (s : State) : s.busy = true ↔ s.inFlight ≠ none := by
  simp [State.busy, Option.isSome_iff_ne_none]

@[simp] theorem State.busy_eq_false_iff (s : State) : s.busy = false ↔ s.inFlight = none := by
  simp [State.busy]

end Sys2Proof.Machine
end

