-- ==== Sys2Proof/Laws/Ops.lean ====
section
/-! SUPPORT. What each shared operation of Ops, Operands and Flags answers, said once. -/

namespace Sys2Proof.Machine

/-! Errors. -/

@[simp] theorem raise_err (s : State) (e : CmdError) : (s.raise e).err = true := by
  unfold State.raise; split <;> simp_all

theorem raise_errcode (s : State) (e : CmdError) : (s.raise e).errcode = if s.err then s.errcode else e.code := by
  unfold State.raise; split <;> simp_all

/-- All that an error does (R168). -/
theorem raise_eq (s : State) (e : CmdError) :
    s.raise e = { s with err := true, errcode := if s.err then s.errcode else e.code } := by
  unfold State.raise
  split
  · rename_i h; cases s; simp_all
  · rename_i h; simp_all

theorem checkSeeded_of_seeded {s : State} (h : s.seeded = true) : s.checkSeeded = s := by simp [State.checkSeeded, h]

theorem checkSeeded_of_unseeded {s : State} (h : s.seeded = false) : s.checkSeeded = s.raise .unseeded := by
  simp [State.checkSeeded, h]

/-! The command in flight. -/

@[simp] theorem operand0_accept (s : State) (w : Word) : (s.accept w).operand0 = s.arg0 := rfl
@[simp] theorem operand1_accept (s : State) (w : Word) : (s.accept w).operand1 = s.arg1 := rfl
@[simp] theorem operand2_accept (s : State) (w : Word) : (s.accept w).operand2 = s.arg2 := rfl

theorem operand0_of_idle {s : State} (h : s.inFlight = none) : s.operand0 = s.arg0 := by simp [State.operand0, h]
theorem operand1_of_idle {s : State} (h : s.inFlight = none) : s.operand1 = s.arg1 := by simp [State.operand1, h]
theorem operand2_of_idle {s : State} (h : s.inFlight = none) : s.operand2 = s.arg2 := by simp [State.operand2, h]

theorem busy_accept (s : State) (w : Word) : (s.accept w).busy = true := rfl
theorem busy_complete (s : State) : s.complete.busy = false := rfl

theorem afterCycle_last {f : InFlight} (h : f.cyclesLeft ≤ 1) : f.afterCycle = none := by simp [InFlight.afterCycle, h]

theorem afterCycle_more {f : InFlight} (h : 1 < f.cyclesLeft) :
    f.afterCycle = some { f with cyclesLeft := f.cyclesLeft - 1 } := by
  rw [InFlight.afterCycle, if_neg (by omega)]

/-! Rows and slots. -/

theorem rowOperand_of_lt {row : BitVec 5} {r : RowIndex} (h : row.toNat = r.val) : rowOperand row = some r := by
  unfold rowOperand
  rw [dif_pos (by omega)]
  congr 1
  exact Fin.ext h

theorem rowOperand_of_ge {row : BitVec 5} (h : 24 ≤ row.toNat) : rowOperand row = none := by
  unfold rowOperand
  rw [dif_neg (by omega)]

theorem slotOperand_of_lt {row : BitVec 5} {k : Fin 16} (h : row.toNat = k.val) :
    slotOperand row = some (BitVec.ofNat 4 k.val) := by
  unfold slotOperand
  rw [if_pos (by omega)]
  congr 1
  apply BitVec.eq_of_toNat_eq
  simp [h]

theorem slotOperand_of_ge {row : BitVec 5} (h : 16 ≤ row.toNat) : slotOperand row = none := by
  unfold slotOperand
  rw [if_neg (by omega)]

theorem slot_eq (ps : PrngWords) (i : SlotIndex) : slot ps i = ps[i.toNat] := rfl

theorem getElem_setSlot (ps : PrngWords) (i : SlotIndex) (v : Word) (k : Fin 16) :
    (setSlot ps i v)[k] = if i.toNat = k.val then v else ps[k] := by
  simp only [setSlot, Fin.getElem_fin, Vector.getElem_set]

theorem getElem_setRow (s : State) (r q : RowIndex) (v : Word) :
    (s.setRow r v).grid[q] = if r = q then v else s.grid[q] := by
  simp only [State.setRow_grid, Fin.getElem_fin, Vector.getElem_set, Fin.ext_iff]

/-! STATUS. -/

/-- Bit 0 of STATUS is BUSY (R25). -/
theorem status_getLsbD_zero (s : State) : s.status.getLsbD 0 = s.busy := by
  unfold State.status
  rw [BitVec.getLsbD_append, if_pos (by decide)]
  cases s.busy <;> rfl

end Sys2Proof.Machine
end

