-- ==== Sys2Proof/Laws/Automaton.lean ====
section
/-! SUPPORT. The row update in the birth and survival form, the generation row by row, and that the checksum loses nothing
of one row. -/

namespace Sys2Proof.Machine

theorem word_ext {v w : Word} (h : ∀ c : ColIndex, v.getLsbD c.val = w.getLsbD c.val) : v = w :=
  BitVec.eq_of_getLsbD_eq fun i hi => h ⟨i, hi⟩

theorem grid_ext {g h : Grid} (e : ∀ r : RowIndex, g[r] = h[r]) : g = h := Vector.ext fun i hi => e ⟨i, hi⟩

/-- The table of R95 counts the set bits. -/
theorem pop3_eq (x y z : Bool) :
    pop3 (BitVec.ofBool x ++ BitVec.ofBool y ++ BitVec.ofBool z) = x.toNat + y.toNat + z.toNat := by
  revert x y z; decide

@[simp] theorem getLsbD_nextRow (above self below : Word) (c : ColIndex) :
    (nextRow above self below).getLsbD c.val = nextCell above self below c := by
  unfold nextRow
  rw [BitVec.getLsbD_eq_getElem c.isLt]
  simp

/-- The total of three (R97) with the centre in it is the rule by neighbours without it (R99). -/
theorem nextCell_eq_lifeRule (above self below : Word) (c : ColIndex) :
    nextCell above self below c = lifeRule (self.getLsbD c.val) (rowNeighbours above self below c) := by
  unfold nextCell total group3 rowNeighbours
  simp only [pop3_eq]
  generalize above.getLsbD _ = a1; generalize above.getLsbD _ = a2; generalize above.getLsbD _ = a3
  generalize self.getLsbD _ = b1; generalize self.getLsbD _ = b2; generalize self.getLsbD _ = b3
  generalize below.getLsbD _ = c1; generalize below.getLsbD _ = c2; generalize below.getLsbD _ = c3
  revert a1 a2 a3 b1 b2 b3 c1 c2 c3
  decide +kernel

@[simp] theorem getElem_nextGrid (g : Grid) (r : RowIndex) :
    (nextGrid g)[r] = nextRow g[(r - 1 : RowIndex)] g[r] g[(r + 1 : RowIndex)] := by
  simp [nextGrid]

/-- A word turned left by k columns shows at column c what it showed at c - k. -/
theorem getLsbD_rotateLeft_col (w : Word) (k : Nat) (hk : k < 32) (c : ColIndex) :
    (w.rotateLeft k).getLsbD c.val = w.getLsbD (c - ⟨k, hk⟩ : ColIndex).val := by
  rw [BitVec.getLsbD_rotateLeft, Nat.mod_eq_of_lt hk]
  have := c.isLt
  rw [Fin.sub_def]
  dsimp only
  by_cases h : c.val < k
  · simp only [h, decide_true, cond_true]; congr 1; omega
  · simp only [h, decide_false, cond_false, this, decide_true, Bool.true_and]; congr 1; omega

/-! The CRC register's steps lose nothing: the polynomial's bit 0 tells which branch a step took. -/

theorem crcSteps_injective (n : Nat) : ∀ c d : Word, crcSteps n c = crcSteps n d → c = d := by
  induction n with
  | zero => intro c d h; exact h
  | succ n ih =>
    intro c d h
    simp only [crcSteps] at h
    have branch : ∀ x y : Word, (x <<< 1) ^^^ 0x04C11DB7 ≠ y <<< 1 := by
      intro x y e
      have := congrArg (·.getLsbD 0) e
      simp at this
    have shifted : ∀ x y : Word, x <<< 1 = y <<< 1 → x.getLsbD 31 = y.getLsbD 31 → x = y := by
      intro x y e e31
      apply BitVec.eq_of_getLsbD_eq
      intro i hi
      by_cases h31 : i = 31
      · rw [h31, e31]
      · have := congrArg (·.getLsbD (i + 1)) e
        simpa [show i + 1 < 32 by omega, BitVec.getLsbD_eq_getElem hi] using this
    split at h <;> split at h <;> rename_i h1 h2
    · exact shifted _ _ (by simpa using ih _ _ h) (by simp_all)
    · exact absurd (ih _ _ h) (branch _ _)
    · exact absurd (ih _ _ h).symm (branch _ _)
    · exact shifted _ _ (ih _ _ h) (by simp_all)

theorem crcWord_left_injective {w c d : Word} (h : crcWord c w = crcWord d w) : c = d := by
  simpa using crcSteps_injective 32 _ _ h

theorem crcWord_right_injective {c v w : Word} (h : crcWord c v = crcWord c w) : v = w := by
  simpa using crcSteps_injective 32 _ _ h

theorem foldl_crcWord_injective (l : List Word) : ∀ c d : Word, l.foldl crcWord c = l.foldl crcWord d → c = d := by
  induction l with
  | nil => intro c d h; exact h
  | cons w l ih => intro c d h; exact crcWord_left_injective (ih _ _ h)

end Sys2Proof.Machine
end

