-- ==== Sys2Proof/Laws/Decode.lean ====
section
/-! SUPPORT. What the fields of a command word, the opcode map, the decoder and the encoder answer, each said once. -/

namespace Sys2Proof

/-! The fields as numbers. -/

theorem opField_toNat (w : Word) : (opField w).toNat = w.toNat % 16 := by simp [opField]

theorem rowField_toNat (w : Word) : (rowField w).toNat = w.toNat / 16 % 32 := by
  simp [rowField, Nat.shiftRight_eq_div_pow]

theorem rsvField_toNat (w : Word) : (rsvField w).toNat = w.toNat / 512 := by
  simp [rsvField, Nat.shiftRight_eq_div_pow]; omega

theorem rowField_eq_zero (w : Word) : rowField w = 0 ↔ w.toNat / 16 % 32 = 0 := by
  rw [← rowField_toNat]
  exact ⟨fun h => by simp [h], fun h => BitVec.eq_of_toNat_eq (by simpa using h)⟩

theorem rsvField_eq_zero (w : Word) : rsvField w = 0 ↔ w.toNat / 512 = 0 := by
  rw [← rsvField_toNat]
  exact ⟨fun h => by simp [h], fun h => BitVec.eq_of_toNat_eq (by simpa using h)⟩

/-! The opcode map. -/

/-- The map selects nothing exactly for the reserved OPs 0xD, 0xE and 0xF. -/
theorem operation_eq_none (op : BitVec 4) (row : BitVec 5) : operation op row = none ↔ 13 ≤ op.toNat := by
  have h := op.isLt
  unfold operation
  split <;> simp_all
  omega

/-- What the map selects carries the OP it was selected by, and the ROW where it takes one. -/
theorem operation_op {op : BitVec 4} {row : BitVec 5} {i : Instr} (h : operation op row = some i) :
    i.op = op ∧ (i.takesRow = true → i.rowOf = row) ∧ (i.takesRow = false → i.rowOf = 0) := by
  unfold operation at h
  split at h <;> cases h <;>
    exact ⟨BitVec.eq_of_toNat_eq (by simp_all [Instr.op]), by simp [Instr.takesRow, Instr.rowOf]⟩

theorem operation_op_rowOf (i : Instr) : operation i.op i.rowOf = some i := by cases i <;> rfl

/-! The decoder. -/

/-- Everything that is so when a word decodes (R78). -/
theorem decode_eq_ok {w : Word} {i : Instr} (h : decode w = .ok i) :
    operation (opField w) (rowField w) = some i ∧ rsvField w = 0 ∧ (i.takesRow = false → rowField w = 0) ∧
      i.wellFormed = true := by
  unfold decode at h
  split at h
  · cases h
  · rename_i j hj
    split at h
    · cases h
    · split at h
      · cases h
      · split at h
        · cases h
        · cases h
          refine ⟨hj, ?_, ?_, ?_⟩ <;> simp_all

/-- A word that passes every check of R78 decodes. -/
theorem decode_of_checks {w : Word} {i : Instr} (ho : operation (opField w) (rowField w) = some i) (hr : rsvField w = 0)
    (h0 : i.takesRow = false → rowField w = 0) (hw : i.wellFormed = true) : decode w = .ok i := by
  unfold decode
  rw [ho]
  simp only [hr, hw]
  by_cases ht : i.takesRow = false
  · simp [h0 ht]
  · simp [ht]

/-! The encoder. -/

theorem encode_toNat (i : Instr) : (encode i).toNat = 16 * i.rowOf.toNat + i.op.toNat := by
  have hr := i.rowOf.isLt
  have ho := i.op.isLt
  have h : i.rowOf.toNat <<< 4 ||| i.op.toNat = i.rowOf.toNat <<< 4 + i.op.toNat :=
    (Nat.shiftLeft_add_eq_or_of_lt ho _).symm
  simp only [encode, BitVec.toNat_or, BitVec.toNat_shiftLeft, BitVec.toNat_setWidth]
  rw [Nat.mod_eq_of_lt (a := i.rowOf.toNat) (by omega), Nat.mod_eq_of_lt (a := i.op.toNat) (by omega),
    Nat.mod_eq_of_lt (a := _ <<< 4) (by rw [Nat.shiftLeft_eq]; omega), h, Nat.shiftLeft_eq]
  omega

theorem opField_encode (i : Instr) : opField (encode i) = i.op :=
  BitVec.eq_of_toNat_eq (by rw [opField_toNat, encode_toNat]; have := i.op.isLt; omega)

theorem rowField_encode (i : Instr) : rowField (encode i) = i.rowOf :=
  BitVec.eq_of_toNat_eq (by rw [rowField_toNat, encode_toNat]; have := i.op.isLt; have := i.rowOf.isLt; omega)

theorem rsvField_encode (i : Instr) : rsvField (encode i) = 0 := by
  rw [rsvField_eq_zero, encode_toNat]
  have := i.op.isLt
  have := i.rowOf.isLt
  omega

end Sys2Proof
end

