-- ==== Sys2Proof/Laws/Lifecycle.lean ====
section
/-! SUPPORT. The energy law, UPDATE as one state, runs of commands cut in two, the band that TRIGGER ORs. -/

namespace Sys2Proof.Machine

theorem energyAfter_toNat (stag : Bool) (e : BitVec 16) :
    (energyAfter stag e).toNat = if stag then 0 else e.toNat - 1 := by
  unfold energyAfter
  split
  · rfl
  · split
    · simp_all
    · rename_i h
      have := e.isLt
      have : e.toNat ≠ 0 := fun h' => h (BitVec.eq_of_toNat_eq (by simpa using h'))
      rw [BitVec.toNat_sub]
      simp
      omega

theorem exec_update (s : State) : exec .update s = .next (s.generation.bookkeep (checksum s.generation.grid)) := rfl

/-- A run of commands that gets through its first part goes on from where that part ends. -/
theorem execAll_append (xs ys : List Instr) :
    ∀ s t : State, execAll xs s = .next t → execAll (xs ++ ys) s = execAll ys t := by
  induction xs with
  | nil => intro s t h; cases h; rfl
  | cons i xs ih =>
    intro s t h
    simp only [execAll, List.cons_append] at h ⊢
    split at h
    · exact ih _ _ h
    · cases h
    · cases h

/-- A byte shifted to column 12 is ORed into columns 12..19. -/
theorem getLsbD_or_byte (w : Word) (b : Byte) (c : ColIndex) :
    (w ||| (b.setWidth 32 <<< 12)).getLsbD c.val =
      (w.getLsbD c.val || (decide (12 ≤ c.val ∧ c.val < 20) && b.getLsbD (c.val - 12))) := by
  have := c.isLt
  simp only [BitVec.getLsbD_or, BitVec.getLsbD_shiftLeft, BitVec.getLsbD_setWidth]
  by_cases h : c.val < 12
  · simp [h, this]
  · by_cases h2 : c.val < 20
    · simp [h, h2, this, show 12 ≤ c.val by omega, show c.val - 12 < 32 by omega]
    · simp [h, h2, this, show 12 ≤ c.val by omega]
      intro _ h
      rw [BitVec.getLsbD_of_ge _ _ (by omega)] at h
      cases h

/-- The byte of the draws that a band row takes, bit by bit (R121, R122). -/
theorem getLsbD_bandByte (w0 w1 : Word) (k j : Nat) (hk : k < 8) (hj : j < 8) :
    (bandByte w0 w1 k).getLsbD j = if k < 4 then w0.getLsbD (8 * k + j) else w1.getLsbD (8 * (k - 4) + j) := by
  unfold bandByte
  rw [BitVec.getLsbD_setWidth, BitVec.getLsbD_ushiftRight]
  by_cases h : k < 4
  · simp [h, hj, Nat.mod_eq_of_lt h]
  · simp [h, hj, show k % 4 = k - 4 by omega]

theorem getElem_orBand (g : Grid) (w0 w1 : Word) (r : RowIndex) :
    (orBand g w0 w1)[r] = if 8 ≤ r.val ∧ r.val ≤ 15 then g[r] ||| ((bandByte w0 w1 (r.val - 8)).setWidth 32 <<< 12) else g[r] := by
  simp [orBand]

end Sys2Proof.Machine
end

