-- ==== Sys2Proof/Laws/Prng.lean ====
section
/-! SUPPORT. The index arithmetic of the WELL512 step, its new index, and that a step of all zeros is zero. -/

namespace Sys2Proof.Machine

theorem slotIndex_add (i : SlotIndex) (k : Nat) (hk : k < 16) : (i + BitVec.ofNat 4 k).toNat = (i.toNat + k) % 16 := by
  simp [BitVec.toNat_add, Nat.mod_eq_of_lt hk]

/-- Each draw moves the index down by one, modulo 16 (R131). -/
theorem wellStep_idx (ps : PrngWords) (i : SlotIndex) : (wellStep ps i).2 = i + 15 := rfl

/-- The slots a draw does not write (R134). -/
theorem wellStep_frame (ps : PrngWords) (i : SlotIndex) (k : Fin 16) (h0 : k.val ≠ i.toNat)
    (h1 : k.val ≠ (i.toNat + 15) % 16) : (wellStep ps i).1[k] = ps[k] := by
  have e : (i + 15).toNat = (i.toNat + 15) % 16 := slotIndex_add i 15 (by decide)
  simp only [wellStep, getElem_setSlot, e]
  rw [if_neg (Ne.symm h1), if_neg (Ne.symm h0)]

theorem setSlot_zero (ps : PrngWords) (i : SlotIndex) (h : ∀ k : Fin 16, ps[k] = 0) :
    ∀ k : Fin 16, (setSlot ps i 0#32)[k] = 0 := by
  intro k
  rw [getElem_setSlot]
  split
  · rfl
  · exact h k

theorem slot_of_zero (ps : PrngWords) (i : SlotIndex) (h : ∀ k : Fin 16, ps[k] = 0) : slot ps i = 0#32 :=
  h ⟨i.toNat, i.isLt⟩

/-- From sixteen zero words a step leaves sixteen zero words (R141). -/
theorem wellStep_zero (ps : PrngWords) (i : SlotIndex) (h : ∀ k : Fin 16, ps[k] = 0) :
    ∀ k : Fin 16, (wellStep ps i).1[k] = 0 := by
  have h0 := setSlot_zero ps i h
  have e : (wellStep ps i).1 = setSlot (setSlot ps i 0#32) (i + 15) 0#32 := by
    simp [wellStep, slot_of_zero ps _ h, slot_of_zero _ _ h0]
  rw [e]
  exact setSlot_zero _ _ h0

end Sys2Proof.Machine
end

