-- ==== Sys2Proof/Laws/Seeding.lean ====
section
/-! SUPPORT. The raw bit as a parity, ENT_SAMPLE through the bit it emits, the progress that one emitted bit makes, runs of
samples cut in two. -/

namespace Sys2Proof.Machine

/-- Bit 0 of a difference is the exclusive or of the bits 0 (R148). -/
theorem rawBit_eq_parityBit (v l : Word) : rawBit v l = parityBit v l := by
  unfold rawBit parityBit
  rw [← BitVec.testBit_toNat, ← BitVec.testBit_toNat, ← BitVec.testBit_toNat, BitVec.toNat_sub]
  simp only [Nat.testBit_zero]
  have := v.isLt
  have := l.isLt
  have h1 : (2 ^ 32 - l.toNat + v.toNat) % 2 ^ 32 % 2 = (v.toNat + l.toNat) % 2 := by omega
  rw [h1]
  rcases Nat.mod_two_eq_zero_or_one v.toNat with h | h <;>
    rcases Nat.mod_two_eq_zero_or_one l.toNat with h' | h' <;> simp [Nat.add_mod, h, h']

theorem ofBool_setWidth (b : Bool) : (BitVec.ofBool b).setWidth 32 = (if b then 1 else 0 : Word) := by cases b <;> rfl

/-- The state of an ENT_SAMPLE in ACTIVE before the bit it emits, if any, enters the accumulator (R147, R149 to R151). -/
def State.sampled (s : State) : State :=
  { s with
    entCount := s.entCount + 1
    last := s.operand0
    lastValid := true
    pairPhase := if s.lastValid && !s.mode then !s.pairPhase else s.pairPhase
    pairFirst := if s.lastValid && !s.mode then !s.pairPhase && parityBit s.operand0 s.last else s.pairFirst }

/-- ENT_SAMPLE in ACTIVE through the one bit it may emit. -/
theorem exec_entSample_active (s : State) (h : s.seedState = .active) :
    exec .entSample s = .next (match s.emits? s.operand0 with | none => s.sampled | some b => s.sampled.emit b) := by
  simp only [exec, execEntSample, h, if_true, State.emits?, State.takeRawBit, rawBit_eq_parityBit, State.sampled]
  cases hl : s.lastValid <;> cases hm : s.mode <;> cases hp : s.pairPhase <;> simp
  · split <;> simp_all

/-- A bit emitted before the 512th of seeding moves the count of bits on by one and ends nothing; the 512th ends seeding. -/
theorem emit_progress (s : State) (b : Bool) (hw : s.wordcnt.toNat < 16) :
    (32 * s.wordcnt.toNat + s.bitcnt.toNat + 1 < 512 →
      (s.emit b).seedState = s.seedState ∧ (s.emit b).seeded = s.seeded ∧ (s.emit b).lastValid = s.lastValid ∧
      (s.emit b).wordcnt.toNat < 16 ∧ (s.emit b).pairPhase = s.pairPhase ∧
      32 * (s.emit b).wordcnt.toNat + (s.emit b).bitcnt.toNat = 32 * s.wordcnt.toNat + s.bitcnt.toNat + 1) ∧
    (32 * s.wordcnt.toNat + s.bitcnt.toNat + 1 = 512 → (s.emit b).seedState = .done ∧ (s.emit b).seeded = true) := by
  have hb := s.bitcnt.isLt
  have hwc : (s.wordcnt + 1).toNat = s.wordcnt.toNat + 1 := by rw [BitVec.toNat_add]; simp; omega
  simp only [State.emit]
  split
  · rename_i h32
    simp only [State.completeWord]
    constructor
    · intro h
      have hne : s.wordcnt + 1 ≠ 16 := fun h => by rw [h] at hwc; simp at hwc; omega
      simp only [if_neg hne]
      refine ⟨trivial, trivial, trivial, by omega, trivial, ?_⟩
      rw [hwc]; simp; omega
    · intro h
      have hne : s.wordcnt + 1 = 16 := BitVec.eq_of_toNat_eq (by rw [hwc]; simp; omega)
      simp only [if_pos hne]
      exact ⟨rfl, rfl⟩
  · rename_i h32
    have hbc : (s.bitcnt + 1).toNat = s.bitcnt.toNat + 1 := by rw [BitVec.toNat_add]; simp; omega
    constructor
    · intro h
      refine ⟨rfl, rfl, rfl, hw, rfl, ?_⟩
      show 32 * s.wordcnt.toNat + (s.bitcnt + 1).toNat = _
      omega
    · intro h; omega

/-- A run of samples that gets through its first part goes on from where that part ends. -/
theorem feed_append (xs ys : List Word) : ∀ s t : State, feed xs s = .next t → feed (xs ++ ys) s = feed ys t := by
  induction xs with
  | nil => intro s t h; cases h; rfl
  | cons v xs ih =>
    intro s t h
    simp only [feed, List.cons_append] at h ⊢
    split at h
    · exact ih _ _ h
    · cases h
    · cases h

end Sys2Proof.Machine
end

