-- ==== Sys2Proof/Laws/Invariant.lean ====
section
/-! SUPPORT. The shared operations keep the invariants of R46, one lemma each; a meaning that is built from them keeps them
by these. -/

namespace Sys2Proof.Machine

/-- `Inv` reads these fields and no other. -/
theorem inv_congr {s t : State} (h : s.Inv) (e1 : t.cfg = s.cfg) (e2 : t.energy = s.energy) (e3 : t.wordcnt = s.wordcnt)
    (e4 : t.seedState = s.seedState) (e5 : t.seeded = s.seeded) (e6 : t.entCount = s.entCount) (e7 : t.acc = s.acc)
    (e8 : t.bitcnt = s.bitcnt) (e9 : t.pairPhase = s.pairPhase) (e10 : t.pairFirst = s.pairFirst) (e11 : t.last = s.last)
    (e12 : t.lastValid = s.lastValid) (e13 : t.mode = s.mode) (e14 : t.err = s.err) (e15 : t.errcode = s.errcode)
    (e16 : t.inFlight = s.inFlight) (e17 : t.arg0 = s.arg0) (e18 : t.arg1 = s.arg1) (e19 : t.arg2 = s.arg2) : t.Inv := by
  obtain ⟨a1, a2, a3, a4, a5, a6, a7, a8, a9, a10, a11, a12, a13, a14⟩ := h
  constructor <;> simp_all

theorem inv_bus {s : State} (h : s.Inv) (b : List HostAction) : { s with bus := b }.Inv := by
  apply inv_congr h <;> rfl

theorem inv_raise {s : State} (h : s.Inv) (e : CmdError) : (s.raise e).Inv := by
  have code : 1 ≤ e.code.toNat ∧ e.code.toNat ≤ 6 := by cases e <;> decide
  have old := h.errSome
  rw [raise_eq]
  obtain ⟨a1, a2, a3, a4, a5, a6, a7, a8, a9, a10, -, -, a13, a14⟩ := h
  refine ⟨a1, a2, a3, a4, a5, a6, a7, a8, a9, a10, by simp, fun _ => ?_, a13, a14⟩
  by_cases hs : s.err = true
  · simpa [hs] using old hs
  · simpa [hs] using code

theorem inv_checkSeeded {s : State} (h : s.Inv) : s.checkSeeded.Inv := by
  unfold State.checkSeeded
  split
  · exact h
  · exact inv_raise h _

theorem inv_draw {s : State} (h : s.Inv) : s.draw.Inv := by apply inv_congr h <;> simp

theorem inv_accept {s : State} (h : s.Inv) (w : Word) : (s.accept w).Inv := by
  obtain ⟨a1, a2, a3, a4, a5, a6, a7, a8, a9, a10, a11, a12, a13, a14⟩ := h
  constructor <;> simp_all [State.accept]

theorem inv_complete {s : State} (h : s.Inv) : s.complete.Inv := by
  obtain ⟨a1, a2, a3, a4, a5, a6, a7, a8, a9, a10, a11, a12, a13, a14⟩ := h
  constructor <;> simp_all

theorem inv_clock {s : State} (h : s.Inv) : s.clock.Inv := by
  have cut : ∀ f, s.clock.inFlight = some f → ∃ g, s.inFlight = some g ∧ 1 < g.cyclesLeft ∧
      f = { g with cyclesLeft := g.cyclesLeft - 1 } := by
    intro f hf
    simp only [State.clock_inFlight, Option.bind_eq_some_iff] at hf
    obtain ⟨g, hg, hf⟩ := hf
    unfold InFlight.afterCycle at hf
    split at hf
    · cases hf
    · exact ⟨g, hg, by omega, (Option.some.inj hf).symm⟩
  obtain ⟨a1, a2, a3, a4, a5, a6, a7, a8, a9, a10, a11, a12, a13, a14⟩ := h
  refine ⟨a1, a2, a3, a4, a5, a6, a7, a8, a9, a10, a11, a12, ?_, ?_⟩
  · intro f hf
    obtain ⟨g, -, hc, rfl⟩ := cut f hf
    dsimp only
    omega
  · intro f hf
    obtain ⟨g, hg, -, rfl⟩ := cut f hf
    exact a14 g hg

/-- One emitted bit keeps them while seeding is ACTIVE. -/
theorem inv_emit {s : State} (h : s.Inv) (ha : s.seedState = .active) (b : Bool) : (s.emit b).Inv := by
  have hw := h.wordcntBound
  have hb := s.bitcnt.isLt
  have hacc := h.accBits
  obtain ⟨a1, a2, a3, a4, a5, a6, a7, a8, a9, a10, a11, a12, a13, a14⟩ := h
  have hw16 : s.wordcnt.toNat ≠ 16 := fun hh => by
    have := a4 (BitVec.eq_of_toNat_eq hh)
    rw [ha] at this
    cases this
  have hsd : s.seeded = false := by
    cases hs : s.seeded with
    | false => rfl
    | true => rw [a5.mp hs] at ha; cases ha
  have hwc : (s.wordcnt + 1).toNat = s.wordcnt.toNat + 1 := by rw [BitVec.toNat_add]; simp; omega
  simp only [State.emit]
  split
  · simp only [State.completeWord]
    split
    · constructor <;> simp_all [State.finishSeeding, State.clearAccumulator]
    · constructor <;> simp_all [-BitVec.toNat_add]
      omega
  · have hbc : (s.bitcnt + 1).toNat = s.bitcnt.toNat + 1 := by rw [BitVec.toNat_add]; simp; omega
    have hnew : ((s.acc <<< 1) ||| (BitVec.ofBool b).setWidth 32).toNat < 2 ^ (s.bitcnt + 1).toNat := by
      rw [hbc, BitVec.toNat_or]
      apply Nat.or_lt_two_pow
      · rw [BitVec.toNat_shiftLeft, Nat.shiftLeft_eq]
        apply lt_of_le_of_lt (Nat.mod_le _ _)
        rw [pow_succ]
        omega
      · have : (BitVec.setWidth 32 (BitVec.ofBool b)).toNat < 2 := by cases b <;> decide
        exact lt_of_lt_of_le this (by rw [pow_succ]; have := Nat.one_le_two_pow (n := s.bitcnt.toNat); omega)
    constructor <;> simp_all [-BitVec.toNat_add, -BitVec.toNat_or]

/-- A sample taken, before the bit it emits. -/
theorem inv_sampled {s : State} (h : s.Inv) (ha : s.seedState = .active) : s.sampled.Inv := by
  obtain ⟨a1, a2, a3, a4, a5, a6, a7, a8, a9, a10, a11, a12, a13, a14⟩ := h
  unfold State.sampled
  refine ⟨a1, a2, a3, a4, a5, ?_, ?_, a8, ?_, ?_, a11, a12, a13, a14⟩
  · intro hi; exact absurd (ha.symm.trans hi) (by decide)
  · intro hn; exact absurd ha hn
  · dsimp only
    cases s.lastValid <;> cases s.mode <;> simp_all
  · intro hm
    have hm' : s.mode = true := hm
    simpa [hm'] using a10 hm'

end Sys2Proof.Machine
end

