-- ==== Sys2Proof/Laws/PerInstr.lean ====
section
/-! SUPPORT. What holds of every command as syntax, one lemma per constructor. -/

namespace Sys2Proof.Laws.OpcodeRow

/-- A command's encoding matches the row of the opcode map that lists it, at every value of ROW (R75). -/
def Statement (i : Instr) : Prop := i.opcodeRow.matches (encode i) = true

theorem nop : Statement .nop := by unfold Statement; decide
theorem rowcalc : Statement .rowcalc := by unfold Statement; decide
theorem evolve : Statement .evolve := by unfold Statement; decide
theorem update : Statement .update := by unfold Statement; decide
theorem trigger : Statement .trigger := by unfold Statement; decide
theorem gridRd (row : BitVec 5) : Statement (.gridRd row) := by unfold Statement; revert row; decide +kernel
theorem gridWr (row : BitVec 5) : Statement (.gridWr row) := by unfold Statement; revert row; decide +kernel
theorem prngNext : Statement .prngNext := by unfold Statement; decide
theorem prngRd (row : BitVec 5) : Statement (.prngRd row) := by unfold Statement; revert row; decide +kernel
theorem prngWr (row : BitVec 5) : Statement (.prngWr row) := by unfold Statement; revert row; decide +kernel
theorem prngIdx : Statement .prngIdx := by unfold Statement; decide
theorem seedStart : Statement .seedStart := by unfold Statement; decide
theorem entSample : Statement .entSample := by unfold Statement; decide

end Sys2Proof.Laws.OpcodeRow
end

