-- ==== Sys2Proof/Laws/Step.lean ====
section
/-! SUPPORT. The step as its next action, and a write on the byte bus as the register-port write it is. -/

namespace Sys2Proof.Machine

/-- An idle bus: the block keeps all its state (R187). -/
theorem step_idle {s : State} (h : s.bus = []) : step s = .next s := by simp [step, h]

/-- The step is the oldest waiting action of the outside world. -/
theorem step_action {s : State} {a : HostAction} {rest : List HostAction} (h : s.bus = a :: rest) :
    step s = hostAction a { s with bus := rest } := by simp [step, h]

theorem step_cons (s : State) (a : HostAction) (rest : List HostAction) :
    step { s with bus := a :: rest } = hostAction a { s with bus := rest } := rfl

/-- What an action that is a register-port write does. -/
theorem hostAction_of_asWrite {a : HostAction} {index : BitVec 4} {v : Word} (h : a.asWrite? = some (index, v)) (s : State) :
    hostAction a s = portWrite index v s := by
  unfold HostAction.asWrite? at h
  split at h <;> try cases h
  · rfl
  · rename_i offset b0 b1 b2 b3
    split at h
    · rename_i h4
      obtain ⟨rfl, rfl⟩ := Prod.mk.inj (Option.some.inj h)
      have e : offset.extractLsb' 2 4 = BitVec.ofNat 4 (offset.toNat / 4) := by
        apply BitVec.eq_of_toNat_eq; simp [Nat.shiftRight_eq_div_pow]
      simp [hostAction, busWrite, busIndex, h4, e, wordOfLanes]
    · cases h

/-- A command word that decodes runs its command on the state in which it is in flight (R85). -/
theorem issue_ok {w : Word} {i : Instr} (h : decode w = .ok i) (s : State) : issue w s = exec i (s.accept w) := by
  simp [issue, h]

/-- A command word that does not decode records its error and does nothing else (R170). -/
theorem issue_error {w : Word} {e : CmdError} (h : decode w = .error e) (s : State) :
    issue w s = .next ((s.accept w).raise e) := by
  simp [issue, h]

end Sys2Proof.Machine
end

