-- ==== Sys2Proof/Tests/Slice0.lean ====
section
/-! SUPPORT. Tests whose expected values are those of spec/95_test_vectors.md, the well-formedness smoke test, words written
out from R70 to R75, and for every statement with hypotheses a state that meets them. -/

namespace Sys2Proof.Tests

open Sys2Proof Sys2Proof.Machine

/-! Helpers. -/

/-- The state a command leaves, run from `s`. -/
def ran (i : Instr) (s : State) : Option State :=
  match exec i s with
  | .next t => some t
  | .fault _ => none
  | .refused _ => none

/-- The state the next step leaves when the outside world does `a`. -/
def acted (a : HostAction) (s : State) : Option State :=
  match step { s with bus := [a] } with
  | .next t => some t
  | .fault _ => none
  | .refused _ => none

/-- Reset with ARG0, ARG1 and ARG2. -/
def withArgs (a b c : Word) : State := { State.reset with arg0 := a, arg1 := b, arg2 := c }

/-- Rows of a grid, every other row 0. -/
def gridOf (rows : List (Fin 24 × Word)) : Grid := rows.foldl (fun g r => g.set r.1.val r.2) (Vector.replicate 24 0)

/-- Slots of the generator, every other slot 0. -/
def slotsOf (slots : List (Fin 16 × Word)) : PrngWords := slots.foldl (fun p k => p.set k.1.val k.2) (Vector.replicate 16 0)

/-- Reset with a grid. -/
def onGrid (rows : List (Fin 24 × Word)) : State := { State.reset with grid := gridOf rows }

/-- Seeded, with slots of the generator. -/
def seededWith (slots : List (Fin 16 × Word)) : State :=
  { State.reset with ps := slotsOf slots, seeded := true, seedState := .done }

/-- A block with a command in flight that needs `n` more cycles. -/
def busyFor (n : Nat) : State :=
  { State.reset with inFlight := some { word := 3, arg0 := 0, arg1 := 0, arg2 := 0, cyclesLeft := n } }

/-- Seeding ACTIVE, the sample in ARG0, after the sample `last`. -/
def seedingAt (mode : Bool) (last v : Word) (phase first : Bool) (bits words : BitVec 5) (acc : Word) : State :=
  { State.reset with
    seedState := .active, mode := mode, last := last, lastValid := true, pairPhase := phase, pairFirst := first,
    bitcnt := bits, wordcnt := words, acc := acc, arg0 := v }

/-! WellFormed refuses an ill-formed term for each of its checks (R72). -/

theorem test_gridRd_row_24_ill_formed : (Instr.gridRd 24).wellFormed = false := by decide
theorem test_gridWr_row_31_ill_formed : (Instr.gridWr 31).wellFormed = false := by decide
theorem test_prngRd_slot_16_ill_formed : (Instr.prngRd 16).wellFormed = false := by decide
theorem test_prngWr_slot_16_ill_formed : (Instr.prngWr 16).wellFormed = false := by decide
theorem test_last_row_and_slot_well_formed :
    (Instr.gridRd 23).wellFormed = true ∧ (Instr.gridWr 23).wellFormed = true ∧
    (Instr.prngRd 15).wellFormed = true ∧ (Instr.prngWr 15).wellFormed = true := by decide

/-! Words written out bit by bit: RSV (23 bits), ROW (5 bits), OP (4 bits). -/

theorem test_decode_nop : decode (0b00000000000000000000000#23 ++ 0b00000#5 ++ 0b0000#4) = .ok .nop := by decide
theorem test_decode_rowcalc : decode (0b00000000000000000000000#23 ++ 0b00000#5 ++ 0b0001#4) = .ok .rowcalc := by decide
theorem test_decode_evolve : decode (0b00000000000000000000000#23 ++ 0b00000#5 ++ 0b0010#4) = .ok .evolve := by decide
theorem test_decode_update : decode (0b00000000000000000000000#23 ++ 0b00000#5 ++ 0b0011#4) = .ok .update := by decide
theorem test_decode_trigger : decode (0b00000000000000000000000#23 ++ 0b00000#5 ++ 0b0100#4) = .ok .trigger := by decide
theorem test_decode_gridRd : decode (0b00000000000000000000000#23 ++ 0b10111#5 ++ 0b0101#4) = .ok (.gridRd 23) := by decide
theorem test_decode_gridWr : decode (0b00000000000000000000000#23 ++ 0b01100#5 ++ 0b0110#4) = .ok (.gridWr 12) := by decide
theorem test_decode_prngNext : decode (0b00000000000000000000000#23 ++ 0b00000#5 ++ 0b0111#4) = .ok .prngNext := by decide
theorem test_decode_prngRd : decode (0b00000000000000000000000#23 ++ 0b01111#5 ++ 0b1000#4) = .ok (.prngRd 15) := by decide
theorem test_decode_prngWr : decode (0b00000000000000000000000#23 ++ 0b00101#5 ++ 0b1001#4) = .ok (.prngWr 5) := by decide
theorem test_decode_prngIdx : decode (0b00000000000000000000000#23 ++ 0b00000#5 ++ 0b1010#4) = .ok .prngIdx := by decide
theorem test_decode_seedStart : decode (0b00000000000000000000000#23 ++ 0b00000#5 ++ 0b1011#4) = .ok .seedStart := by decide
theorem test_decode_entSample : decode (0b00000000000000000000000#23 ++ 0b00000#5 ++ 0b1100#4) = .ok .entSample := by decide

/-- ENC-1 to ENC-4: ILLEGAL_OP comes before RESERVED_FIELD. -/
theorem test_decode_illegal_op :
    decode 0x0000000D = .error .illegalOp ∧ decode 0x0000000E = .error .illegalOp ∧
    decode 0x0000000F = .error .illegalOp ∧ decode 0x0000020E = .error .illegalOp := by decide

/-- ENC-5 to ENC-8. -/
theorem test_decode_reserved_field :
    decode 0x00000200 = .error .reservedField ∧ decode 0x00000010 = .error .reservedField ∧
    decode 0x00000013 = .error .reservedField ∧ decode 0x80000005 = .error .reservedField := by decide

/-- ENC-9 to ENC-13. -/
theorem test_decode_bad_row :
    decode 0x00000185 = .error .badRow ∧ decode 0x00000186 = .error .badRow ∧ decode 0x000001F5 = .error .badRow ∧
    decode 0x00000108 = .error .badRow ∧ decode 0x00000109 = .error .badRow := by decide

/-- The table's own numbering of the bits gives the same commands, and none where the decoder refuses. -/
theorem test_decodeTableWord :
    decodeTableWord 32 0x176 = some (.gridWr 23) ∧ decodeTableWord 32 0x185 = none ∧
    decodeTableWord 32 0xC = some .entSample := by decide

/-- No two rows of the opcode map list one word. -/
theorem test_opcode_rows_disjoint :
    ([Instr.nop, .rowcalc, .evolve, .update, .trigger, .gridRd 0, .gridWr 0, .prngNext, .prngRd 0, .prngWr 0, .prngIdx,
      .seedStart, .entSample].map Instr.opcodeRow).Pairwise
        (fun a b => a.matchWord &&& (a.mask &&& b.mask) ≠ b.matchWord &&& (a.mask &&& b.mask)) := by decide

/-! The commands, one step each. -/

/-- ENC-15. -/
theorem test_nop_changes_nothing : ran .nop State.reset = some State.reset := by decide +kernel

/-- CAE-12. -/
theorem test_rowcalc_mixed :
    (ran .rowcalc (withArgs 0x12345678 0x9ABCDEF0 0x0F1E2D3C)).map (·.result) = some 0x1040C084 := by decide +kernel

/-- CAE-6: column 0 is next to column 31. -/
theorem test_rowcalc_wraps : (ran .rowcalc (withArgs 1 1 1)).map (·.result) = some 0x80000003 := by decide +kernel

/-- S14: row 23 is next to row 0. -/
theorem test_evolve_wraps :
    (ran .evolve (onGrid [(23, 1), (0, 1), (1, 1)])).map (fun t => (t.grid, t.result)) =
      some (gridOf [(0, 0x80000003)], 0xEE3246B0) := by decide +kernel

/-- CAE-19: a glider's first generation. -/
theorem test_evolve_glider :
    (ran .evolve (onGrid [(0, 2), (1, 4), (2, 7)])).map (fun t => (t.grid, t.result)) =
      some (gridOf [(1, 5), (2, 6), (3, 2)], 0x83F43DA7) := by decide +kernel

/-- LCU-1, UPDATE 4: the period-2 branch. -/
theorem test_update_period_two :
    (ran .update { onGrid [(11, 0x20), (12, 0x20), (13, 0x20)] with
      energy := 8189, hist0 := 0xD493F107, hist1 := 0x3B6CDE64, hist2 := 0xD493F107 }).map
        (fun t => (t.result, t.energy, t.hist0, t.hist1, t.hist2, t.stagnant)) =
      some (0x3B6CDE64, 0, 0x3B6CDE64, 0xD493F107, 0x3B6CDE64, true) := by decide +kernel

/-- LCU-6: the decrement saturates at 0 without stagnation. -/
theorem test_update_saturates :
    (ran .update { onGrid [(0, 2), (1, 4), (2, 7)] with energy := 0 }).map (fun t => (t.energy, t.stagnant)) =
      some (0, false) := by decide +kernel

/-- LCU-7. -/
theorem test_trigger_band :
    (ran .trigger { seededWith [(0, 1)] with energy := 5 }).map (fun t => (t.grid, t.energy, t.idx, t.status)) =
      some (gridOf [(8, 0x20000), (10, 0x4000), (13, 0x4000), (14, 0x80000)], 8192, 14, 0x0000000A) := by decide +kernel

/-- LCU-9: unseeded, the error is recorded and the command runs. -/
theorem test_trigger_unseeded :
    (ran .trigger { State.reset with energy := 0 }).map (fun t => (t.energy, t.idx, t.status)) =
      some (8192, 14, 0x00000620) := by decide +kernel

/-- CAE-25. -/
theorem test_gridRd : (ran (.gridRd 12) (onGrid [(12, 0xDEADBEEF)])).map (·.result) = some 0xDEADBEEF := by decide +kernel

/-- CAE-27. -/
theorem test_gridRd_bad_row :
    (acted (.write 0 0x00000185) State.reset).map (fun t => (t.errcode, t.err, t.result)) = some (4, true, 0) := by
  decide +kernel

/-- CAE-24. -/
theorem test_gridWr :
    (ran (.gridWr 12) (withArgs 0xDEADBEEF 0 0)).map (fun t => (t.grid, t.result, t.status)) =
      some (gridOf [(12, 0xDEADBEEF)], 0, 0) := by decide +kernel

/-- PRNG-3, the first of three. -/
theorem test_prngNext :
    (ran .prngNext (seededWith [(0, 1)])).map (fun t => (t.result, t.idx, t.ps)) =
      some (0x00040020, 15, slotsOf [(0, 0x00010001), (15, 0x00040020)]) := by decide +kernel

/-- PRNG-6. -/
theorem test_prngNext_unseeded :
    (ran .prngNext State.reset).map (fun t => (t.result, t.idx, t.status)) = some (0, 15, 0x00000620) := by decide +kernel

/-- PRNG-8. -/
theorem test_prngRd : (ran (.prngRd 15) (seededWith [(15, 0x12345678)])).map (·.result) = some 0x12345678 := by
  decide +kernel

/-- PRNG-8. -/
theorem test_prngWr :
    (ran (.prngWr 15) (withArgs 0x12345678 0 0)).map (fun t => (t.ps, t.idx, t.seeded)) =
      some (slotsOf [(15, 0x12345678)], 0, false) := by decide +kernel

/-- PRNG-7: only ARG0[3:0] is taken. -/
theorem test_prngIdx :
    (ran .prngIdx (withArgs 0x13 0 0)).map (fun t => (t.idx, t.status)) = some (3, 0x0000000A) := by decide +kernel

/-- SEED-1, its first line. -/
theorem test_seedStart : (ran .seedStart State.reset).map (·.status) = some 0x00000004 := by decide +kernel

/-- SEED-8: SEED_START twice. -/
theorem test_seedStart_twice :
    (ran .seedStart { State.reset with seedState := .active }).map (·.status) = some 0x00000524 := by decide +kernel

/-- SEED-1, samples 10 and 11: a tie of ones emits nothing. -/
theorem test_entSample_tie :
    (ran .entSample (seedingAt false 115 116 true true 4 0 7)).map (fun t => (t.status, t.acc)) =
      some (0x01004004, 7) := by decide +kernel

/-- SEED-3: the difference wraps. -/
theorem test_entSample_wraps :
    (ran .entSample (seedingAt true 0xFFFFFFFF 0 false false 0 0 0)).map (fun t => (t.acc, t.bitcnt)) = some (1, 1) := by
  decide +kernel

/-! The ports. -/

/-- ENC-14: a second error records nothing new, and a write of bit 5 to STATUS clears both fields. -/
theorem test_error_is_sticky :
    (acted (.write 0 0x10) { State.reset with err := true, errcode := 2 }).map (·.errcode) = some 2 ∧
    (acted (.write 5 0x20) { State.reset with err := true, errcode := 2 }).map (·.status) = some 0 := by decide +kernel

/-- R25: every field of STATUS at its place. -/
theorem test_status_fields :
    { State.reset with seeded := true, seedState := .done, stagnant := true, err := true, mode := true, errcode := 6,
                       bitcnt := 31, wordcnt := 16, lastValid := true }.status = 0x0121F67A := by decide +kernel

/-- CAE-26: the render port at rows 23 and 24. -/
theorem test_render :
    (acted (.render 23) (onGrid [(23, 1)])).map (·.rpData) = some 1 ∧
    (acted (.render 24) (onGrid [(23, 1)])).map (·.rpData) = some 0 := by decide +kernel

/-- R55: lane 0 carries bits 7..0, at the lowest address. -/
theorem test_byte_lanes :
    (acted (.busWrite 4 [0x78, 0x56, 0x34, 0x12]) State.reset).map (·.arg0) = some 0x12345678 ∧
    (List.range 4).map (lane 0x12345678) = [0x78, 0x56, 0x34, 0x12] := by decide +kernel

/-- R56: a byte and a word off its boundary are refused. -/
theorem test_byte_bus_refusals :
    acted (.busWrite 4 [0x78]) State.reset = none ∧ acted (.busRead 6 4) State.reset = none := by decide +kernel

/-- R171: a write while a command is in flight is ignored and records BUSY. -/
theorem test_write_while_busy :
    (acted (.write 1 7) (busyFor 2)).map (fun t => (t.arg0, t.errcode, t.busy)) = some (0, 1, true) := by decide +kernel

/-- R185: ENERGY after reset is MAXCOUNT. -/
theorem test_reset_energy : State.reset.energy = 8192 ∧ (State.resetWith { maxCount := 1 }).energy = 1 := by decide

/-- R80, R81: the words of a program's lines. -/
theorem test_program_lines :
    pseudoSetRow 12 0x70 = [.write 1 0x70, .write 0 0xC6, .poll] ∧ pseudoClrErr = [.write 5 0x20] ∧
    pseudoSample 100 = [.write 1 100, .write 0 0xC, .poll] := by decide

/-! Witnesses: for each statement with hypotheses, states and operands that meet them, at the ends of their ranges. -/

theorem witness_DecodeEncodeRoundTrip :
    (Instr.gridWr 23).wellFormed = true ∧ (Instr.prngRd 15).wellFormed = true ∧ Instr.entSample.wellFormed = true := by
  decide

theorem witness_DecodedWordIsItsEncoding : decode 0x176 = .ok (.gridWr 23) := by decide

theorem witness_LegalWordsAreTheListedEightyNine :
    (0x00000185 : Word) ∉ legalWords ∧ (0x00000013 : Word) ∉ legalWords ∧ (0x00000175 : Word) ∈ legalWords := by
  decide +kernel

/-- A word for each clause, in the statement's order. -/
theorem witness_DecodeChecksInOrder :
    13 ≤ (0xD : Word).toNat % 16 ∧
    ((0x20C : Word).toNat % 16 < 13 ∧ (0x20C : Word).toNat / 512 ≠ 0) ∧
    ((0x1C : Word).toNat % 16 = 12 ∧ (0x1C : Word).toNat / 512 = 0 ∧ (0x1C : Word).toNat / 16 % 32 ≠ 0) ∧
    ((0x185 : Word).toNat % 16 = 5 ∧ (0x185 : Word).toNat / 512 = 0 ∧ (0x185 : Word).toNat / 16 % 32 = 24) ∧
    ((0x109 : Word).toNat % 16 = 9 ∧ (0x109 : Word).toNat / 512 = 0 ∧ (0x109 : Word).toNat / 16 % 32 = 16) ∧
    ((0x176 : Word).toNat % 16 = 6 ∧ (0x176 : Word).toNat / 512 = 0 ∧ (0x176 : Word).toNat / 16 % 32 = 23) := by decide

theorem witness_StepRunsDecodedCommand :
    decode 0x2 = .ok .evolve ∧ State.reset.inFlight = none ∧
    { State.reset with bus := [.write 0 0x2] }.bus = .write 0 0x2 :: [] ∧ BitVec.ofNat 32 2 = (0x2 : Word) := by decide

theorem witness_DiscardedCommandChangesOnlyTheError :
    decode 0xE = .error .illegalOp ∧ (seededWith []).seedState ≠ .idle ∧ State.reset.seedState ≠ .active ∧
    24 ≤ (24 : BitVec 5).toNat ∧ 16 ≤ (16 : BitVec 5).toNat ∧ State.reset.seeded = false := by decide

theorem witness_ErrorIsSticky :
    ∃ s t u : State, exec .nop s = .next s ∧ s.err = true ∧ step s = .next t ∧ ¬ s.ClearsError ∧ ¬ s.Resets ∧
      step { s with bus := [.write 5 0x20] } = .next u ∧ { s with bus := [.write 5 0x20] }.ClearsError ∧
      { s with bus := [.rst] }.Resets := by
  refine ⟨{ State.reset with err := true, errcode := 2 }, _, _, rfl, rfl, rfl, ?_, ?_, rfl, ⟨0x20, ?_, ?_⟩, ?_⟩
  · simp [State.ClearsError, State.nextWrite?, State.reset, State.resetWith]
  · simp [State.Resets, State.reset, State.resetWith]
  · rfl
  · decide
  · rfl

theorem witness_WriteWhileBusyIsIgnored : (busyFor 1).busy = true ∧ (busyFor 2).busy = true := by decide

theorem witness_HostReadReturnsTheRegister :
    State.reset.busy = false ∧ { State.reset with bus := [.read 0xF] }.bus = .read 0xF :: [] := by decide

theorem witness_ReadWhileBusyIsExactForStatusOnly : (busyFor 1).busy = true := by decide

theorem witness_RenderPortShowsTheGrid :
    { State.reset with bus := [.render 24] }.bus = .render 24 :: [] ∧ State.reset.busy = false ∧
    (23 : BitVec 5).toNat = (23 : RowIndex).val ∧ 24 ≤ (24 : BitVec 5).toNat ∧ (busyFor 1).busy = true := by decide

theorem witness_ByteBusTakesAlignedWordsOnly :
    (60 : BitVec 6).toNat = 4 * (15 : BitVec 4).toNat ∧
    (0x12345678 : Word).toNat = (0x78 : Byte).toNat + 2 ^ 8 * (0x56 : Byte).toNat + 2 ^ 16 * (0x34 : Byte).toNat
      + 2 ^ 24 * (0x12 : Byte).toNat ∧
    (HostAction.busWrite 4 [0x78]).Refused ∧ (HostAction.busRead 6 4).Refused :=
  ⟨by decide, by decide, Or.inl (by decide), Or.inr (by decide)⟩

theorem witness_BusyLastsTheLatency :
    (busyFor 1).inFlight = some { word := 3, arg0 := 0, arg1 := 0, arg2 := 0, cyclesLeft := 1 } ∧
    { busyFor 1 with bus := [HostAction.clk, .read 5] }.bus = List.replicate 1 .clk ++ [.read 5] := by decide

theorem witness_PollIsReadingStatusUntilIdle :
    (busyFor 3).inFlight = some { word := 3, arg0 := 0, arg1 := 0, arg2 := 0, cyclesLeft := 3 } ∧ 1 ≤ 3 := by decide

theorem witness_NothingHangsOrFaults :
    ∀ a, { State.reset with bus := [.poll] }.bus.head? = some a → ¬ a.Refused := by
  intro a h
  obtain rfl := Option.some.inj h
  exact id

theorem witness_ControlKeepsOnlyRaw :
    State.reset.busy = false ∧
    { State.reset with bus := [.write 6 3, .read 6] }.bus = HostAction.write 6 3 :: .read 6 :: [] := by decide

theorem witness_CommandLineRunsItsCommand :
    State.reset.inFlight = none ∧ (Instr.gridRd 23).wellFormed = true ∧
    { State.reset with bus := lineCmd (.gridRd 23) }.bus = lineCmd (.gridRd 23) ++ [] := by decide

theorem witness_ResetLeavesTheTableOfResetValues :
    { busyFor 5 with bus := [.rst, .read 5] }.bus = .rst :: [.read 5] := by decide

theorem witness_ResetMeetsTheInvariant :
    (Config.mk 1).legal = true ∧ (Config.mk 65535).legal = true ∧ Config.default.legal = true := by decide

/-- A state in the middle of seeding that meets the invariant, and a step from it. -/
theorem witness_StepKeepsTheInvariant :
    ∃ s t : State, s.Inv ∧ s.seedState = .active ∧ s.bitcnt = 31 ∧ step s = .next t := by
  refine ⟨seedingAt true 0 1 false false 31 15 0x7FFFFFFF, _, ?_, rfl, rfl, rfl⟩
  constructor <;> simp [seedingAt, State.reset, State.resetWith, Config.default, Config.legal]

theorem witness_ReachableStatesMeetTheInvariants : ∃ s t : State, Reachable s ∧ Reachable t ∧ t.arg0 = 7 := by
  have h : Reachable { State.resetWith Config.default with bus := [.write 1 7] } := .start _ _ (by decide)
  exact ⟨_, _, h, .step h rfl, rfl⟩

/-- A state before each of the moves, and the word whose acceptance makes it. -/
theorem witness_SeedStateMovesOnlyByItsCommands :
    (State.reset.seedState = .idle ∧ (ran .seedStart State.reset).map (·.seedState) = some .active) ∧
    ((seedingAt true 0 1 false false 31 15 0).emits? (seedingAt true 0 1 false false 31 15 0).operand0 = some true ∧
      (ran .entSample (seedingAt true 0 1 false false 31 15 0)).map (·.seedState) = some .done) ∧
    (ran .prngIdx State.reset).map (·.seedState) = some .done ∧
    (acted .rst (seededWith [])).map (·.seedState) = some .idle ∧
    (acted (.write 0 0xB) State.reset).map (·.seedState) = some .active := by decide +kernel

/-- A step that changes each of the fields spoken of, with the word that it accepts. -/
theorem witness_OnlyTheNamedCommandsWrite :
    (acted (.write 0 3) State.reset).map (fun t => (t.hist0, t.energy)) = some (0x8A59D0A2, 8191) ∧
    (acted (.write 0 2) (onGrid [(12, 0x70)])).map (fun t => t.scratch) = some (gridOf [(12, 0x70)]) ∧
    (acted (.write 0 0x176) (withArgs 5 0 0)).map (fun t => t.grid) = some (gridOf [(23, 5)]) ∧
    (acted (.write 0 0xF9) (withArgs 5 0 0)).map (fun t => t.ps) = some (slotsOf [(15, 5)]) ∧
    (acted (.write 0 0xA) (withArgs 5 0 0)).map (fun t => t.idx) = some 5 := by decide +kernel

theorem witness_CommandsLeaveTheHostsRegisters :
    (∃ t, exec .evolve State.reset = .next t) ∧ decode 0x185 = .error .badRow ∧
    (∃ t, issue 0x185 State.reset = .next t) ∧ (Instr.gridWr 24).wellFormed = false ∧
    (seededWith []).seedState ≠ .idle ∧ State.reset.seedState ≠ .active :=
  ⟨⟨_, rfl⟩, by decide, ⟨_, rfl⟩, by decide, by decide, by decide⟩

theorem witness_SafeBeforeSeeding :
    (Instr.prngWr 15).wellFormed = true ∧ State.reset.seeded = false ∧ State.reset.busy = false ∧
    (∃ t, exec (.prngWr 15) State.reset = .next t) ∧ (∃ t, step { State.reset with bus := [.write 5 0] } = .next t) :=
  ⟨by decide, by decide, by decide, ⟨_, rfl⟩, ⟨_, rfl⟩⟩

theorem witness_NopChangesNothing :
    (0x80000000 : Word).toNat % 16 = 0 ∧ (0x80000000 : Word) ≠ 0 ∧ (0x10 : Word).toNat % 16 = 0 ∧ (0x10 : Word) ≠ 0 ∧
    (busyFor 1).busy = true ∧ State.reset.busy = false := by decide

theorem witness_GenerationCommutesWithTurning : 0 < 32 ∧ 31 < 32 := by decide

theorem witness_ChecksumSeesEveryOneRowChange : (1 : Word) ≠ (gridOf [])[(23 : RowIndex)] := by decide +kernel

theorem witness_GridRowsReadAndWrite : (23 : BitVec 5).toNat = (23 : RowIndex).val ∧ (22 : RowIndex) ≠ 23 := by decide

/-- LCU-3: the block is a still life, the history is that of reset and its checksum is not 0. -/
theorem witness_StillLifeStagnatesAtTheSecondUpdate :
    nextGrid (gridOf [(0, 0x80000001), (23, 0x80000001)]) = gridOf [(0, 0x80000001), (23, 0x80000001)] ∧
    checksum (gridOf [(0, 0x80000001), (23, 0x80000001)]) = 0x76863D54 := by decide +kernel

/-- LCU-1: the blinker has period 2, with these two checksums. -/
theorem witness_PeriodTwoStagnatesAtTheFourthUpdate :
    nextGrid (nextGrid (gridOf [(12, 0x70)])) = gridOf [(12, 0x70)] ∧
    checksum (gridOf [(12, 0x70)]) = 0x3B6CDE64 ∧ checksum (nextGrid (gridOf [(12, 0x70)])) = 0xD493F107 ∧
    State.reset.hist0 = 0 ∧ State.reset.hist1 = 0 ∧ State.reset.hist2 = 0 := by decide +kernel

theorem witness_StagnationPersists :
    nextGrid (nextGrid (onGrid [(12, 0x70)]).grid) = (onGrid [(12, 0x70)]).grid := by decide +kernel

theorem witness_TriggerSeedsTheBand : (seededWith [(0, 1)]).seeded = true ∧ State.reset.seeded = false := by decide

theorem witness_PrngNextIsTheWellStep : (seededWith [(0, 1)]).seeded = true ∧ State.reset.seeded = false := by decide

/-- Two blocks that differ in the grid and in SEEDED and agree on the generator. -/
theorem witness_DrawsDependOnTheGeneratorAlone :
    (onGrid [(0, 1)]).ps = (seededWith []).ps ∧ (onGrid [(0, 1)]).idx = (seededWith []).idx ∧
    (∀ i ∈ [Instr.trigger, .prngNext], i = .prngNext ∨ i = .trigger) ∧
    [Instr.trigger, .prngNext].getLast? = some .prngNext := by decide +kernel

theorem witness_DrawsTurnTheIndexAndKeepZero : ∀ k : Fin 16, State.reset.ps[k] = 0 := by decide

theorem witness_PrngSlotsReadAndWrite : (15 : BitVec 5).toNat = (15 : Fin 16).val ∧ (0 : Fin 16) ≠ 15 := by decide

theorem witness_PrngIdxEndsSeeding : ∃ s : State, s.Inv ∧ s.seeded = true := by
  refine ⟨seededWith [], ?_, rfl⟩
  constructor <;> simp [seededWith, State.reset, State.resetWith, Config.default, Config.legal]

theorem witness_SeedStartBeginsSeeding : State.reset.seedState = .idle := by decide

/-- A bit is emitted at BITCNT 30, and none on the first sample. -/
theorem witness_SampleYieldsAtMostOneBit :
    (seedingAt true 0 1 false false 30 0 0).seedState = .active ∧
    (seedingAt true 0 1 false false 30 0 0).emits? 1 = some true ∧
    (seedingAt true 0 1 false false 30 0 0).bitcnt.toNat < 31 ∧
    { seedingAt true 0 1 false false 31 0 0 with lastValid := false }.emits? 1 = none := by decide

/-- The 32nd bit of the first, the 15th and the 16th word. -/
theorem witness_ThirtySecondBitCompletesTheWord :
    ∀ w ∈ ([0, 14, 15] : List (BitVec 5)),
      (seedingAt false 0 1 true false 31 w 0).seedState = .active ∧
      (seedingAt false 0 1 true false 31 w 0).emits? (seedingAt false 0 1 true false 31 w 0).operand0 = some true ∧
      (seedingAt false 0 1 true false 31 w 0).bitcnt = 31 ∧ w.toNat ≤ 15 := by decide +kernel

theorem witness_RawSeedingTakes513Samples :
    State.reset.seedState = .idle ∧ State.reset.seeded = false ∧ { State.reset with raw := true }.raw = true ∧
    (List.replicate 513 (0 : Word)).length ≤ 513 ∧ (List.replicate 512 (0 : Word)).length ≤ 513 :=
  ⟨rfl, rfl, rfl, by rw [List.length_replicate], by rw [List.length_replicate]; decide⟩

theorem witness_DebiasedSeedingNeeds1025Samples :
    State.reset.seedState = .idle ∧ State.reset.seeded = false ∧ State.reset.raw = false ∧
    (List.replicate 1024 (0 : Word)).length < 1025 :=
  ⟨rfl, rfl, rfl, by rw [List.length_replicate]; decide⟩

theorem witness_SeedDependsOnSampleBitZeroOnly :
    ([3, 4] : List Word).map (·.getLsbD 0) = ([1, 0x80000000] : List Word).map (·.getLsbD 0) ∧
    State.reset.seedState = .idle := by decide

/-- Samples whose raw bits are all 1. -/
theorem witness_EqualRawBitsNeverSeed :
    State.reset.seedState = .idle ∧ State.reset.raw = false ∧
    ∀ (k : Nat) (h : k + 1 < ([0, 1, 2, 3] : List Word).length),
      parityBit ([0, 1, 2, 3] : List Word)[k + 1] ([0, 1, 2, 3] : List Word)[k] = true := by
  refine ⟨rfl, rfl, ?_⟩
  intro k h
  rcases k with _ | _ | _ | k
  · simp [parityBit]
  · simp [parityBit]
  · simp [parityBit]
  · simp at h
    omega

/-- SEED-5a's samples in their bit 0: the raw bits are 1, 0, 1, 0, ..., so every pair is 10. -/
theorem witness_TieFreeSamplesSeedAtThe1025th :
    ∃ samples : List Word, ∃ _ : samples.length = 1025,
      State.reset.seedState = .idle ∧ State.reset.seeded = false ∧ State.reset.raw = false ∧
      ∀ (k : Nat) (h : k < 512), parityBit samples[2 * k + 1] samples[2 * k] ≠
        parityBit samples[2 * k + 2] samples[2 * k + 1] := by
  refine ⟨(List.range 1025).map fun j => if j % 4 = 1 ∨ j % 4 = 2 then 1 else 0, by simp, rfl, rfl, rfl, ?_⟩
  intro k h
  simp only [List.getElem_map, List.getElem_range, parityBit]
  rcases Nat.mod_two_eq_zero_or_one k with hk | hk
  · rw [if_pos (by omega), if_neg (by omega), if_pos (by omega)]; decide
  · rw [if_neg (by omega), if_pos (by omega), if_neg (by omega)]; decide

end Sys2Proof.Tests
end

section
/-! The symmetries of a generation: it commutes with turning the torus either way, and does not know above from below. -/

namespace Sys2Proof.Machine

theorem getElem_gridOfFn (f : RowIndex → Word) (r : RowIndex) : (Vector.ofFn f : Grid)[r] = f r := by
  simp

/-! Turning by columns (R15, R96). -/

/-- Turning a word turns its groups: the columns on either side of c are turned with c. -/
theorem group3_rotateLeft (w : Word) (k : Nat) (hk : k < 32) (c : ColIndex) :
    group3 (w.rotateLeft k) c = group3 w (c - ⟨k, hk⟩) := by
  simp only [group3, getLsbD_rotateLeft_col w k hk, add_sub_right_comm, sub_right_comm]

theorem total_rotateLeft (above self below : Word) (k : Nat) (hk : k < 32) (c : ColIndex) :
    total (above.rotateLeft k) (self.rotateLeft k) (below.rotateLeft k) c = total above self below (c - ⟨k, hk⟩) := by
  simp only [total, group3_rotateLeft _ k hk]

theorem nextCell_rotateLeft (above self below : Word) (k : Nat) (hk : k < 32) (c : ColIndex) :
    nextCell (above.rotateLeft k) (self.rotateLeft k) (below.rotateLeft k) c =
      nextCell above self below (c - ⟨k, hk⟩) := by
  rw [nextCell, total_rotateLeft _ _ _ k hk, getLsbD_rotateLeft_col _ k hk, nextCell]

theorem nextRow_rotateLeft (above self below : Word) (k : Nat) (hk : k < 32) :
    nextRow (above.rotateLeft k) (self.rotateLeft k) (below.rotateLeft k) =
      (nextRow above self below).rotateLeft k :=
  word_ext fun c => by
    rw [getLsbD_rotateLeft_col _ k hk, getLsbD_nextRow, getLsbD_nextRow, nextCell_rotateLeft _ _ _ k hk]

theorem nextGrid_turnColumns (g : Grid) (k : Nat) (hk : k < 32) :
    nextGrid (Vector.ofFn fun r : RowIndex => g[r].rotateLeft k) =
      Vector.ofFn fun r : RowIndex => (nextGrid g)[r].rotateLeft k :=
  grid_ext fun r => by simp only [getElem_nextGrid, getElem_gridOfFn, nextRow_rotateLeft _ _ _ k hk]

/-! Turning by rows (R15, R103). -/

theorem nextGrid_turnRows (g : Grid) (k : RowIndex) :
    nextGrid (Vector.ofFn fun r : RowIndex => g[(r + k : RowIndex)]) =
      Vector.ofFn fun r : RowIndex => (nextGrid g)[(r + k : RowIndex)] :=
  grid_ext fun r => by
    have above : r - 1 + k = r + k - 1 := sub_add_eq_add_sub r 1 k
    have below : r + 1 + k = r + k + 1 := add_right_comm r 1 k
    simp only [getElem_nextGrid, getElem_gridOfFn, above, below]

/-! Above and below (R97, R103). -/

/-- The total of R97 counts the rows above and below alike. -/
theorem total_swap (above self below : Word) (c : ColIndex) : total above self below c = total below self above c := by
  simp only [total]
  omega

theorem nextCell_swap (above self below : Word) (c : ColIndex) :
    nextCell above self below c = nextCell below self above c := by
  rw [nextCell, total_swap, nextCell]

theorem nextRow_swap (above self below : Word) : nextRow above self below = nextRow below self above :=
  word_ext fun c => by rw [getLsbD_nextRow, getLsbD_nextRow, nextCell_swap]

/-- Settles O31: row by row, and in each row cell by cell, since turning moves a cell's neighbours with the cell. -/
theorem generationCommutesWithTurning : Obligations.GenerationCommutesWithTurning :=
  ⟨nextGrid_turnColumns, nextGrid_turnRows, nextRow_swap⟩

end Sys2Proof.Machine
end

section
/-! What a command can do, said once: it always answers a next state, and `CommandEffect` lists the states it can answer. -/

namespace Sys2Proof.Machine

@[simp] theorem State.sampled_seedState (s : State) : s.sampled.seedState = s.seedState := rfl
@[simp] theorem State.sampled_bitcnt (s : State) : s.sampled.bitcnt = s.bitcnt := rfl
@[simp] theorem State.sampled_wordcnt (s : State) : s.sampled.wordcnt = s.wordcnt := rfl

/-! The meanings at the operands that their guards tell apart. -/

theorem exec_gridRd {row : BitVec 5} {r : RowIndex} (h : row.toNat = r.val) (s : State) :
    exec (.gridRd row) s = .next (s.setResult s.grid[r]) := by
  simp only [exec, execGridRd, rowOperand_of_lt h]

theorem exec_gridWr {row : BitVec 5} {r : RowIndex} (h : row.toNat = r.val) (s : State) :
    exec (.gridWr row) s = .next (s.setRow r s.operand0) := by
  simp only [exec, execGridWr, rowOperand_of_lt h]

theorem exec_prngRd {row : BitVec 5} (h : row.toNat < 16) (s : State) :
    exec (.prngRd row) s = .next (s.setResult (slot s.ps (row.setWidth 4))) := by
  simp only [exec, execPrngRd, slotOperand, if_pos h]

theorem exec_prngWr {row : BitVec 5} (h : row.toNat < 16) (s : State) :
    exec (.prngWr row) s = .next { s with ps := setSlot s.ps (row.setWidth 4) s.operand0 } := by
  simp only [exec, execPrngWr, slotOperand, if_pos h]

theorem exec_trigger {s u : State} (hu : u = { s.checkSeeded with energy := s.cfg.maxCount }) : exec .trigger s =
    .next { u.draw.draw with grid := orBand u.grid u.draw.drawn u.draw.draw.drawn } := by
  subst hu; rfl

theorem exec_seedStart_idle {s : State} (h : s.seedState = .idle) : exec .seedStart s =
    .next { s.clearAccumulator with mode := s.raw, seedState := .active, wordcnt := 0, entCount := 0 } :=
  if_pos h

theorem exec_seedStart_discarded {s : State} (h : s.seedState ≠ .idle) :
    exec .seedStart s = .next (s.raise .seedState) :=
  if_neg h

theorem exec_entSample_discarded {s : State} (h : s.seedState ≠ .active) :
    exec .entSample s = .next (s.raise .seedState) :=
  if_neg h

/-- A term that the decoder never makes is discarded with BAD_ROW (log 13). -/
theorem exec_illFormed {i : Instr} (h : i.wellFormed = false) (s : State) : exec i s = .next (s.raise .badRow) := by
  cases i <;> simp only [Instr.wellFormed, decide_eq_false_iff_not, not_lt, reduceCtorEq] at h
  case gridRd row => simp only [exec, execGridRd, rowOperand_of_ge h]
  case gridWr row => simp only [exec, execGridWr, rowOperand_of_ge h]
  case prngRd row => simp only [exec, execPrngRd, slotOperand_of_ge h]
  case prngWr row => simp only [exec, execPrngWr, slotOperand_of_ge h]

/-! The inversion. -/

/-- The states a command can answer from `s`: its own effect (R85), or the record of the error it is discarded with (R170). -/
inductive CommandEffect (s : State) : Instr → State → Prop where
  | nop : CommandEffect s .nop s
  | rowcalc : CommandEffect s .rowcalc (s.setResult (nextRow s.operand0 s.operand1 s.operand2))
  | evolve : CommandEffect s .evolve (s.generation.setResult (checksum s.generation.grid))
  | update : CommandEffect s .update (s.generation.bookkeep (checksum s.generation.grid))
  | trigger {u : State} (hu : u = { s.checkSeeded with energy := s.cfg.maxCount }) :
    CommandEffect s .trigger { u.draw.draw with grid := orBand u.grid u.draw.drawn u.draw.draw.drawn }
  | gridRd {row : BitVec 5} {r : RowIndex} (hr : row.toNat = r.val) :
    CommandEffect s (.gridRd row) (s.setResult s.grid[r])
  | gridWr {row : BitVec 5} {r : RowIndex} (hr : row.toNat = r.val) :
    CommandEffect s (.gridWr row) (s.setRow r s.operand0)
  | prngNext : CommandEffect s .prngNext (s.checkSeeded.draw.setResult s.checkSeeded.draw.drawn)
  | prngRd {row : BitVec 5} (hr : row.toNat < 16) :
    CommandEffect s (.prngRd row) (s.setResult (slot s.ps (row.setWidth 4)))
  | prngWr {row : BitVec 5} (hr : row.toNat < 16) :
    CommandEffect s (.prngWr row) { s with ps := setSlot s.ps (row.setWidth 4) s.operand0 }
  | prngIdx : CommandEffect s .prngIdx
      { s.clearAccumulator with idx := s.operand0.extractLsb' 0 4, seeded := true, seedState := .done }
  | seedStart (hi : s.seedState = .idle) : CommandEffect s .seedStart
      { s.clearAccumulator with mode := s.raw, seedState := .active, wordcnt := 0, entCount := 0 }
  | sampleKept (ha : s.seedState = .active) (hn : s.emits? s.operand0 = none) : CommandEffect s .entSample s.sampled
  | sampleEmits {b : Bool} (ha : s.seedState = .active) (hb : s.emits? s.operand0 = some b) :
    CommandEffect s .entSample (s.sampled.emit b)
  | badRow {i : Instr} (hw : i.wellFormed = false) : CommandEffect s i (s.raise .badRow)
  | seedStartDiscarded (hi : s.seedState ≠ .idle) : CommandEffect s .seedStart (s.raise .seedState)
  | entSampleDiscarded (ha : s.seedState ≠ .active) : CommandEffect s .entSample (s.raise .seedState)

theorem exec_total (i : Instr) (s : State) : ∃ t, exec i s = .next t ∧ CommandEffect s i t := by
  by_cases hw : i.wellFormed = false
  · exact ⟨_, exec_illFormed hw s, .badRow hw⟩
  cases i with
  | nop => exact ⟨_, rfl, .nop⟩
  | rowcalc => exact ⟨_, rfl, .rowcalc⟩
  | evolve => exact ⟨_, rfl, .evolve⟩
  | update => exact ⟨_, rfl, .update⟩
  | trigger => exact ⟨_, exec_trigger rfl, .trigger rfl⟩
  | gridRd row =>
    have hr : row.toNat = (⟨row.toNat, by simpa [Instr.wellFormed] using hw⟩ : RowIndex).val := rfl
    exact ⟨_, exec_gridRd hr s, .gridRd hr⟩
  | gridWr row =>
    have hr : row.toNat = (⟨row.toNat, by simpa [Instr.wellFormed] using hw⟩ : RowIndex).val := rfl
    exact ⟨_, exec_gridWr hr s, .gridWr hr⟩
  | prngNext => exact ⟨_, rfl, .prngNext⟩
  | prngRd row =>
    have hr : row.toNat < 16 := by simpa [Instr.wellFormed] using hw
    exact ⟨_, exec_prngRd hr s, .prngRd hr⟩
  | prngWr row =>
    have hr : row.toNat < 16 := by simpa [Instr.wellFormed] using hw
    exact ⟨_, exec_prngWr hr s, .prngWr hr⟩
  | prngIdx => exact ⟨_, rfl, .prngIdx⟩
  | seedStart =>
    by_cases hi : s.seedState = .idle
    · exact ⟨_, exec_seedStart_idle hi, .seedStart hi⟩
    · exact ⟨_, exec_seedStart_discarded hi, .seedStartDiscarded hi⟩
  | entSample =>
    by_cases ha : s.seedState = .active
    · refine ⟨_, exec_entSample_active s ha, ?_⟩
      split
      · exact .sampleKept ha ‹_›
      · exact .sampleEmits ha ‹_›
    · exact ⟨_, exec_entSample_discarded ha, .entSampleDiscarded ha⟩

theorem commandEffect_of_exec {i : Instr} {s t : State} (h : exec i s = .next t) : CommandEffect s i t := by
  obtain ⟨u, hu, he⟩ := exec_total i s
  obtain rfl : u = t := by simpa [hu] using h
  exact he

end Sys2Proof.Machine
end

section
/-! What a step can do, said once: it resets, runs the command of an accepted word, or is one of the other accesses, which
`PortEffect` lists. -/

namespace Sys2Proof

/-- A word that decodes is the encoding of its command (R73, R75, R80). -/
theorem encode_of_decode {w : Word} {i : Instr} (h : decode w = .ok i) : encode i = w := by
  obtain ⟨ho, hrsv, hrow, -⟩ := decode_eq_ok h
  obtain ⟨hop, htakes, hfree⟩ := operation_op ho
  have row : i.rowOf = rowField w := by
    by_cases ht : i.takesRow = true
    · exact htakes ht
    · rw [hfree (by simpa using ht), hrow (by simpa using ht)]
  apply BitVec.eq_of_toNat_eq
  rw [rsvField_eq_zero] at hrsv
  rw [encode_toNat, row, hop, rowField_toNat, opField_toNat]
  omega

/-- The encoding as R80 writes it, with ROW as a number. -/
theorem encode_of_rowOf {i : Instr} {n : Nat} (h : i.rowOf.toNat = n) :
    encode i = i.op.setWidth 32 ||| (BitVec.ofNat 32 n <<< 4) := by
  rw [← h, BitVec.ofNat_toNat, BitVec.or_comm, encode]

end Sys2Proof

namespace Sys2Proof.Machine

theorem portReg_cmd {index : BitVec 4} (h : portReg index = .cmd) : index = 0 := by
  revert index; decide

theorem portReg_status {index : BitVec 4} (h : portReg index = .status) : index = 5 := by
  revert index; decide

/-- The states an access that neither resets nor runs a command can leave: `write?` is the register-port write it makes.
`discarded` is a word accepted and not decoded (R170). -/
inductive PortEffect (write? : Option (BitVec 4 × Word)) (s : State) : State → Prop where
  | ignored : PortEffect write? s s
  | busyWrite (hb : s.busy = true) : PortEffect write? s (s.raise .busy)
  | discarded {w : Word} {e : CmdError} (hi : s.inFlight = none) (hd : decode w = .error e) :
    PortEffect write? s ((s.accept w).raise e)
  | arg0 {v : Word} (hi : s.inFlight = none) : PortEffect write? s { s with arg0 := v }
  | arg1 {v : Word} (hi : s.inFlight = none) : PortEffect write? s { s with arg1 := v }
  | arg2 {v : Word} (hi : s.inFlight = none) : PortEffect write? s { s with arg2 := v }
  | ctrl {v : Word} (hi : s.inFlight = none) : PortEffect write? s { s with raw := v.getLsbD 0 }
  | errorCleared {v : Word} (hw : write? = some (5, v)) (h5 : v.getLsbD 5 = true) : PortEffect write? s s.clearError
  | shown {rdata rpData : Word} {draws : Nat} :
    PortEffect write? s { s with rdata := rdata, rpData := rpData, draws := draws }
  | polled {rdata : Word} : PortEffect write? s { s.complete with rdata := rdata }
  | clocked : PortEffect write? s s.clock

/-- The host's own registers: a write of one is refused while a command is in flight (R171). -/
theorem portEffect_unlessBusy {write? : Option (BitVec 4 × Word)} {s u : State}
    (h : s.inFlight = none → PortEffect write? s u) :
    PortEffect write? s (if s.busy then s.raise .busy else u) := by
  split
  · exact .busyWrite ‹_›
  · exact h (by simpa using ‹¬ s.busy = true›)

theorem portWrite_cases {index : BitVec 4} {v : Word} {s t : State} (h : portWrite index v s = .next t) :
    PortEffect (some (index, v)) s t ∨
      index = 0 ∧ s.inFlight = none ∧ ∃ i, decode v = .ok i ∧ exec i (s.accept v) = .next t := by
  cases hr : portReg index <;> simp only [portWrite, hr, Host.Outcome.next.injEq] at h
  case cmd =>
    split at h
    · cases h; exact .inl (.busyWrite ‹_›)
    · have hi : s.inFlight = none := by simpa using ‹¬ s.busy = true›
      cases hd : decode v with
      | error e => rw [issue_error hd] at h; cases h; exact .inl (.discarded hi hd)
      | ok i => exact .inr ⟨portReg_cmd hr, hi, i, rfl, by rwa [issue_ok hd] at h⟩
  case arg0 => subst h; exact .inl (portEffect_unlessBusy .arg0)
  case arg1 => subst h; exact .inl (portEffect_unlessBusy .arg1)
  case arg2 => subst h; exact .inl (portEffect_unlessBusy .arg2)
  case ctrl => subst h; exact .inl (portEffect_unlessBusy .ctrl)
  case status =>
    subst h; split
    · exact .inl (.errorCleared (by rw [portReg_status hr]) ‹_›)
    · exact .inl .ignored
  all_goals subst h; exact .inl .ignored

theorem portRead_effect (write? : Option (BitVec 4 × Word)) (index : BitVec 4) (s : State) :
    PortEffect write? s (portRead index s) := by
  unfold portRead
  split <;> exact .shown

theorem renderRead_effect (write? : Option (BitVec 4 × Word)) (row : BitVec 5) (s : State) :
    PortEffect write? s (renderRead row s) := by
  unfold renderRead
  split
  · exact .shown
  · split <;> exact .shown

/-- A byte-bus write that is not refused is a register-port write (R56). -/
theorem asWrite_of_busWrite {offset : BitVec 6} {bytes : List Byte} {s t : State}
    (h : busWrite offset bytes s = .next t) : ∃ p, (HostAction.busWrite offset bytes).asWrite? = some p := by
  unfold busWrite busIndex at h
  split at h
  case h_1 b0 b1 b2 b3 hb =>
    have h4 : offset.toNat % 4 = 0 := by
      by_contra hn
      simp [hn] at hb
    exact ⟨_, if_pos h4⟩
  all_goals cases h

theorem hostAction_cases {a : HostAction} {s t : State} (h : hostAction a s = .next t) :
    a = .rst ∧ t = s.resetPin ∨ PortEffect a.asWrite? s t ∨
      ∃ i, s.inFlight = none ∧ a.asWrite? = some (0, encode i) ∧ exec i (s.accept (encode i)) = .next t := by
  have written : ∀ index v, a.asWrite? = some (index, v) → PortEffect a.asWrite? s t ∨
      ∃ i, s.inFlight = none ∧ a.asWrite? = some (0, encode i) ∧ exec i (s.accept (encode i)) = .next t := by
    intro index v ha
    rw [hostAction_of_asWrite ha] at h
    rw [ha]
    obtain hp | ⟨rfl, hi, i, hd, hx⟩ := portWrite_cases h
    · exact .inl hp
    · obtain rfl := encode_of_decode hd
      exact .inr ⟨i, hi, rfl, hx⟩
  cases a with
  | write index v => exact .inr (written index v rfl)
  | read index => cases h; exact .inr (.inl (portRead_effect _ index s))
  | render row => cases h; exact .inr (.inl (renderRead_effect _ row s))
  | busWrite offset bytes =>
    obtain ⟨⟨index, v⟩, ha⟩ := asWrite_of_busWrite h
    exact .inr (written index v ha)
  | busRead offset size =>
    simp only [hostAction, busRead] at h
    split at h
    · cases h; exact .inr (.inl (portRead_effect _ _ s))
    · cases h
  | poll => cases h; exact .inr (.inl .polled)
  | clk => cases h; exact .inr (.inl .clocked)
  | rst => cases h; exact .inl ⟨rfl, rfl⟩

/-- `s` with its oldest waiting action taken off the bus: the state on which the step performs that action. -/
def State.taken (s : State) : State := { s with bus := s.bus.tail }

theorem step_cases {s t : State} (h : step s = .next t) :
    s.Resets ∧ t = s.taken.resetPin ∨ PortEffect s.nextWrite? s.taken t ∨
      ∃ i, s.Accepts (encode i) ∧ exec i (s.taken.accept (encode i)) = .next t := by
  cases hb : s.bus with
  | nil =>
    rw [step_idle hb] at h
    cases h
    have same : s.taken = s := by cases s; cases hb; rfl
    rw [same]
    exact .inr (.inl .ignored)
  | cons a rest =>
    have taken : { s with bus := rest } = s.taken := by rw [State.taken, hb, List.tail_cons]
    have write : s.nextWrite? = a.asWrite? := by rw [State.nextWrite?, hb]; rfl
    rw [step_action hb, taken] at h
    rw [write]
    obtain ⟨rfl, ht⟩ | hp | ⟨i, hi, ha, hx⟩ := hostAction_cases h
    · exact .inl ⟨by rw [State.Resets, hb]; rfl, ht⟩
    · exact .inr (.inl hp)
    · exact .inr (.inr ⟨i, ⟨s.busy_eq_false_iff.mpr hi, write.trans ha⟩, hx⟩)

/-- A step that takes a reset off the bus ends in the reset state (R185). -/
theorem step_of_resets {s : State} (h : s.Resets) : step s = .next s.taken.resetPin := by
  obtain ⟨rest, hb⟩ := List.head?_eq_some_iff.mp h
  rw [step_action hb, State.taken, hb]
  rfl

end Sys2Proof.Machine
end

section
/-! The invariant holds at reset, every step keeps it, and so it holds of every reachable state. -/

namespace Sys2Proof.Machine

theorem inv_resetWith {c : Config} (h : c.legal = true) : (State.resetWith c).Inv := by
  constructor <;> simp [State.resetWith, h]

/-- Settles O21: reset leaves zeros, IDLE and a full energy, and the invariant does not read the bus. -/
theorem resetMeetsTheInvariant : Obligations.ResetMeetsTheInvariant :=
  fun _ bus h => inv_bus (inv_resetWith h) bus

theorem inv_resetPin {s : State} (h : s.Inv) : s.resetPin.Inv := by
  apply inv_congr (inv_resetWith h.legal) <;> rfl

/-- The energy law never raises the energy (R118). -/
theorem energyAfter_le (stag : Bool) (e : BitVec 16) : (energyAfter stag e).toNat ≤ e.toNat := by
  rw [energyAfter_toNat]
  split <;> omega

theorem inv_generation {s : State} (h : s.Inv) : s.generation.Inv := by apply inv_congr h <;> simp

theorem inv_setResult {s : State} (h : s.Inv) (v : Word) : (s.setResult v).Inv := by apply inv_congr h <;> simp

theorem inv_energy {s : State} (h : s.Inv) {e : BitVec 16} (he : e.toNat ≤ s.cfg.maxCount.toNat) :
    { s with energy := e }.Inv :=
  { h with energyBound := he }

theorem inv_bookkeep {s : State} (h : s.Inv) (c : Word) : (s.bookkeep c).Inv := by
  have energy := (energyAfter_le (stagnation c s.hist0 s.hist1 s.hist2) s.energy).trans h.energyBound
  apply inv_congr (inv_energy h energy) <;> simp

theorem inv_prngIdx {s : State} (h : s.Inv) (i : SlotIndex) :
    { s.clearAccumulator with idx := i, seeded := true, seedState := .done }.Inv := by
  obtain ⟨legal, energyBound, wordcntBound, -, -, -, -, -, -, -, errNone, errSome, latencyLeft, snapshot⟩ := h
  constructor <;> simp_all

theorem inv_seedStart {s : State} (h : s.Inv) (hi : s.seedState = .idle) :
    { s.clearAccumulator with mode := s.raw, seedState := .active, wordcnt := 0, entCount := 0 }.Inv := by
  have unseeded : ¬ s.seeded = true := by rw [h.seededDone, hi]; decide
  obtain ⟨legal, energyBound, -, -, -, -, -, -, -, -, errNone, errSome, latencyLeft, snapshot⟩ := h
  constructor <;> simp_all

/-- Every command keeps the invariant. -/
theorem inv_exec {i : Instr} {s t : State} (h : s.Inv) (hx : exec i s = .next t) : t.Inv := by
  cases commandEffect_of_exec hx with
  | nop => exact h
  | rowcalc => exact inv_setResult h _
  | evolve => exact inv_setResult (inv_generation h) _
  | update => exact inv_bookkeep (inv_generation h) _
  | trigger hu =>
    have full : ({ s.checkSeeded with energy := s.cfg.maxCount } : State).Inv :=
      inv_energy (inv_checkSeeded h) (by simp)
    subst hu
    apply inv_congr (inv_draw (inv_draw full)) <;> rfl
  | gridRd => exact inv_setResult h _
  | gridWr => apply inv_congr h <;> simp
  | prngNext => exact inv_setResult (inv_draw (inv_checkSeeded h)) _
  | prngRd => exact inv_setResult h _
  | prngWr => apply inv_congr h <;> rfl
  | prngIdx => exact inv_prngIdx h _
  | seedStart hi => exact inv_seedStart h hi
  | sampleKept ha => exact inv_sampled h ha
  | sampleEmits ha => exact inv_emit (inv_sampled h ha) ha _
  | badRow => exact inv_raise h _
  | seedStartDiscarded => exact inv_raise h _
  | entSampleDiscarded => exact inv_raise h _

theorem inv_portEffect {write? : Option (BitVec 4 × Word)} {s t : State} (h : s.Inv) (hp : PortEffect write? s t) :
    t.Inv := by
  cases hp with
  | ignored => exact h
  | busyWrite => exact inv_raise h _
  | discarded => exact inv_raise (inv_accept h _) _
  | arg0 hi => exact { h with snapshot := by simp [hi] }
  | arg1 hi => exact { h with snapshot := by simp [hi] }
  | arg2 hi => exact { h with snapshot := by simp [hi] }
  | ctrl => apply inv_congr h <;> rfl
  | errorCleared => exact { h with errNone := by simp, errSome := by simp }
  | shown => apply inv_congr h <;> rfl
  | polled => apply inv_congr (inv_complete h) <;> rfl
  | clocked => exact inv_clock h

/-- Settles O22: by what a step can do, each of its cases keeping the invariant. -/
theorem stepKeepsTheInvariant : Obligations.StepKeepsTheInvariant := by
  intro s t h hs
  have taken : s.taken.Inv := inv_bus h _
  obtain ⟨-, rfl⟩ | hp | ⟨i, -, hx⟩ := step_cases hs
  · exact inv_resetPin taken
  · exact inv_portEffect taken hp
  · exact inv_exec (inv_accept taken _) hx

theorem inv_of_reachable {s : State} (h : Reachable s) : s.Inv := by
  induction h with
  | start c bus hc => exact resetMeetsTheInvariant c bus hc
  | step _ hs ih => exact stepKeepsTheInvariant _ _ ih hs

/-- Settles O23: the invariants of R46 are parts of `State.Inv`, or bounds of the fields' types. -/
theorem reachableStatesMeetTheInvariants : Obligations.ReachableStatesMeetTheInvariants := by
  intro s hs
  have h := inv_of_reachable hs
  have seedState : s.seedState ∈ [SeedState.idle, SeedState.active, SeedState.done] := by
    cases s.seedState <;> decide
  have idle : s.seedState = .idle → s.acc = 0 ∧ s.bitcnt = 0 ∧ s.wordcnt = 0 ∧ s.pairPhase = false ∧
      s.pairFirst = false ∧ s.last = 0 ∧ s.lastValid = false ∧ s.entCount = 0 := by
    intro hi
    obtain ⟨hword, hent⟩ := h.idleZero hi
    obtain ⟨hacc, hbit, hphase, hfirst, hlast, hvalid⟩ := h.inactiveZero (by rw [hi]; decide)
    exact ⟨hacc, hbit, hword, hphase, hfirst, hlast, hvalid, hent⟩
  exact ⟨h.energyBound, Nat.le_of_lt_succ s.idx.isLt, Nat.le_of_lt_succ s.bitcnt.isLt, h.wordcntBound, seedState,
    h.seededDone, idle, h.errNone, h.errSome⟩

end Sys2Proof.Machine
end

section
/-! Who writes what: register by register the commands that can change it, and what no command and no other access
touches. -/

namespace Sys2Proof.Machine

/-! The commands. -/

theorem raise_writes_error_only (s : State) (e : CmdError) :
    s.raise e = { s with err := (s.raise e).err, errcode := (s.raise e).errcode } := by
  simp only [raise_eq]

section
variable {i : Instr} {s t : State} (hx : exec i s = .next t)
include hx

/-- No command touches the host's registers, the command in flight or the model's own fields (R87; logs 1 and 7). -/
theorem exec_leaves_host_fields :
    t.arg0 = s.arg0 ∧ t.arg1 = s.arg1 ∧ t.arg2 = s.arg2 ∧ t.raw = s.raw ∧ t.inFlight = s.inFlight ∧ t.cfg = s.cfg ∧
    t.bus = s.bus ∧ t.rdata = s.rdata ∧ t.rpData = s.rpData ∧ t.draws = s.draws := by
  cases commandEffect_of_exec hx <;> simp [State.sampled, *]

theorem exec_writes_history
    (h : t.stagnant ≠ s.stagnant ∨ t.hist0 ≠ s.hist0 ∨ t.hist1 ≠ s.hist1 ∨ t.hist2 ≠ s.hist2) : i = .update := by
  cases commandEffect_of_exec hx <;> simp [State.sampled, *] at h ⊢

theorem exec_writes_energy (h : t.energy ≠ s.energy) : i = .update ∨ i = .trigger := by
  cases commandEffect_of_exec hx <;> simp [State.sampled] at h ⊢

theorem exec_writes_scratch (h : t.scratch ≠ s.scratch) : i = .evolve ∨ i = .update := by
  cases commandEffect_of_exec hx <;> simp [State.sampled, *] at h ⊢

theorem exec_writes_row {r : RowIndex} (h : t.grid[r] ≠ s.grid[r]) :
    i = .evolve ∨ i = .update ∨ (i = .trigger ∧ 8 ≤ r.val ∧ r.val ≤ 15) ∨
      ∃ row : BitVec 5, row.toNat = r.val ∧ i = .gridWr row := by
  cases commandEffect_of_exec hx
  case trigger hu =>
    rw [getElem_orBand] at h
    by_cases hband : 8 ≤ r.val ∧ r.val ≤ 15
    · exact .inr (.inr (.inl ⟨rfl, hband⟩))
    · simp [hband, hu] at h
  case gridWr row q hr =>
    rw [getElem_setRow] at h
    by_cases hq : q = r
    · subst hq; simpa using hr
    · simp [hq] at h
  all_goals simp [State.sampled] at h ⊢

theorem exec_writes_result (h : t.result ≠ s.result) :
    i = .rowcalc ∨ i = .evolve ∨ i = .update ∨ i = .prngNext ∨
      (∃ r : RowIndex, ∃ row : BitVec 5, row.toNat = r.val ∧ i = .gridRd row) ∨
      (∃ k : Fin 16, ∃ row : BitVec 5, row.toNat = k.val ∧ i = .prngRd row) := by
  cases commandEffect_of_exec hx
  case gridRd row r hr => simpa using ⟨r, hr⟩
  case prngRd row hr => simpa using ⟨(⟨row.toNat, hr⟩ : Fin 16), rfl⟩
  all_goals simp [State.sampled, *] at h ⊢

theorem exec_writes_idx (h : t.idx ≠ s.idx) : i = .trigger ∨ i = .prngNext ∨ i = .prngIdx ∨ i = .entSample := by
  cases commandEffect_of_exec hx <;> simp at h ⊢

theorem exec_writes_slot {k : Fin 16} (h : t.ps[k] ≠ s.ps[k]) :
    i = .trigger ∨ i = .prngNext ∨ i = .entSample ∨ ∃ row : BitVec 5, row.toNat = k.val ∧ i = .prngWr row := by
  cases commandEffect_of_exec hx
  case prngWr row hr =>
    rw [getElem_setSlot] at h
    have low : (row.setWidth 4).toNat = row.toNat := by simpa using hr
    by_cases hk : row.toNat = k.val
    · simpa using hk
    · simp [low, hk] at h
  all_goals simp at h ⊢

end

/-- Settles O26: the frame of every command, what writes RESULT, and the three ways a command is discarded. -/
theorem commandsLeaveTheHostsRegisters : Obligations.CommandsLeaveTheHostsRegisters := by
  refine ⟨fun i s t hx => ?_, fun s t w e hd hx => ?_, fun i s t hx hdiscard => ?_⟩
  · obtain ⟨h0, h1, h2, hraw, hfly, hcfg, hbus, hrdata, hrp, hdraws⟩ := exec_leaves_host_fields hx
    refine ⟨h0, h1, h2, hraw, hfly, hcfg, hbus, hrdata, hrp, hdraws, fun hne => ?_⟩
    obtain h | h | h | h | ⟨-, row, -, h⟩ | ⟨-, row, -, h⟩ := exec_writes_result hx hne <;> simp [h]
  · rw [issue_error hd] at hx
    cases hx
    exact raise_writes_error_only _ _
  · have discarded : ∃ e, exec i s = .next (s.raise e) := by
      obtain hw | ⟨rfl, hi⟩ | ⟨rfl, ha⟩ := hdiscard
      · exact ⟨_, exec_illFormed hw s⟩
      · exact ⟨_, exec_seedStart_discarded hi⟩
      · exact ⟨_, exec_entSample_discarded ha⟩
    obtain ⟨e, he⟩ := discarded
    rw [he] at hx
    cases hx
    exact raise_writes_error_only s e

/-! The other accesses. -/

/-- An access that neither resets nor runs a command writes no register that commands write. -/
theorem portEffect_frame {write? : Option (BitVec 4 × Word)} {s t : State} (hp : PortEffect write? s t) :
    t.grid = s.grid ∧ t.scratch = s.scratch ∧ t.energy = s.energy ∧ t.hist0 = s.hist0 ∧ t.hist1 = s.hist1 ∧
    t.hist2 = s.hist2 ∧ t.stagnant = s.stagnant ∧ t.result = s.result ∧ t.ps = s.ps ∧ t.idx = s.idx ∧
    t.seedState = s.seedState := by
  cases hp <;> simp

/-- Settles O25: a step that is no reset and changes one of these registers runs a command that can. -/
theorem onlyTheNamedCommandsWrite : Obligations.OnlyTheNamedCommandsWrite := by
  intro s t hs hreset
  obtain ⟨hr, -⟩ | hp | ⟨i, ha, hx⟩ := step_cases hs
  · exact absurd hr hreset
  · obtain ⟨hgrid, hscratch, henergy, h0, h1, h2, hstag, hres, hps, hidx, -⟩ := portEffect_frame hp
    simp [hgrid, hscratch, henergy, h0, h1, h2, hstag, hres, hps, hidx, State.taken]
  refine ⟨fun hne => ?_, fun hne => ?_, fun hne => ?_, fun r hne => ?_, fun hne => ?_, fun hne => ?_, fun k hne => ?_⟩
  · obtain rfl := exec_writes_history hx hne
    exact ha
  · obtain rfl | rfl := exec_writes_energy hx hne
    · exact .inl ha
    · exact .inr ha
  · obtain rfl | rfl := exec_writes_scratch hx hne
    · exact .inl ha
    · exact .inr ha
  · obtain rfl | rfl | ⟨rfl, hband⟩ | ⟨row, hrow, rfl⟩ := exec_writes_row hx hne
    · exact .inl ha
    · exact .inr (.inl ha)
    · exact .inr (.inr (.inl ⟨ha, hband⟩))
    · exact .inr (.inr (.inr (encode_of_rowOf (i := .gridWr row) hrow ▸ ha)))
  · obtain rfl | rfl | rfl | rfl | ⟨r, row, hrow, rfl⟩ | ⟨k, row, hrow, rfl⟩ := exec_writes_result hx hne
    · exact .inl ha
    · exact .inr (.inl ha)
    · exact .inr (.inr (.inl ha))
    · exact .inr (.inr (.inr (.inl ha)))
    · exact .inr (.inr (.inr (.inr (.inl ⟨r, encode_of_rowOf (i := .gridRd row) hrow ▸ ha⟩))))
    · exact .inr (.inr (.inr (.inr (.inr ⟨k, encode_of_rowOf (i := .prngRd row) hrow ▸ ha⟩))))
  · obtain rfl | rfl | rfl | rfl := exec_writes_idx hx hne
    · exact .inl ha
    · exact .inr (.inl ha)
    · exact .inr (.inr (.inl ha))
    · exact .inr (.inr (.inr ha))
  · obtain rfl | rfl | rfl | ⟨row, hrow, rfl⟩ := exec_writes_slot hx hne
    · exact .inl ha
    · exact .inr (.inl ha)
    · exact .inr (.inr (.inl ha))
    · exact .inr (.inr (.inr (encode_of_rowOf (i := .prngWr row) hrow ▸ ha)))

/-! The seeder's state. -/

/-- The count 32 of R152 is reached from 31. -/
theorem bitcnt_last (n : BitVec 5) : n.toNat + 1 = 32 ↔ n = 31 := by bv_omega

theorem wordcnt_last (n : BitVec 5) : n + 1 = 16 ↔ n = 15 := by bv_omega

/-- The 32nd bit of a word counts that word (R153). -/
theorem emit_wordcnt (s : State) (b : Bool) :
    (s.emit b).wordcnt = if s.bitcnt = 31 then s.wordcnt + 1 else s.wordcnt := by
  simp only [State.emit, bitcnt_last]
  split <;> simp

/-- Seeding ends with the 32nd bit of the 16th word (R153). -/
theorem emit_seedState (s : State) (b : Bool) :
    (s.emit b).seedState = if s.bitcnt = 31 ∧ s.wordcnt = 15 then .done else s.seedState := by
  simp only [State.emit, bitcnt_last]
  by_cases hbit : s.bitcnt = 31
  · simp only [hbit, if_true, State.completeWord, wordcnt_last, true_and]
    split <;> rfl
  · simp only [hbit, if_false, false_and]

/-- The commands that move SEED_STATE, and from where (R28). -/
theorem exec_moves_seedState {i : Instr} {s t : State} (hx : exec i s = .next t) (h : t.seedState ≠ s.seedState) :
    (i = .seedStart ∧ s.seedState = .idle ∧ t.seedState = .active) ∨
    (i = .entSample ∧ s.seedState = .active ∧ t.seedState = .done ∧ s.wordcnt = 15 ∧ s.bitcnt = 31 ∧ t.wordcnt = 16) ∨
    (i = .prngIdx ∧ s.seedState ≠ .done ∧ t.seedState = .done) := by
  cases commandEffect_of_exec hx
  case seedStart hi => exact .inl ⟨rfl, hi, rfl⟩
  case prngIdx => exact .inr (.inr ⟨rfl, h.symm, rfl⟩)
  case sampleEmits b ha hb =>
    rw [emit_seedState] at h
    split at h
    · rename_i last
      obtain ⟨hbit, hword⟩ := last
      refine .inr (.inl ⟨rfl, ha, (emit_seedState _ b).trans (if_pos ⟨hbit, hword⟩), hword, hbit, ?_⟩)
      rw [emit_wordcnt, if_pos hbit, hword]
      rfl
    · exact absurd rfl h
  all_goals simp [State.sampled, *] at h

/-- Settles O24: each move by its command's effect, and no other by what a step can do. -/
theorem seedStateMovesOnlyByItsCommands : Obligations.SeedStateMovesOnlyByItsCommands := by
  refine ⟨fun s t hx hi => ?_, fun s t b hx ha hb hbit hword => ?_, fun s t hx => ?_, fun s t hs hr => ?_,
    fun s t hs hne => ?_⟩
  · rw [exec_seedStart_idle hi] at hx
    cases hx
    rfl
  · rw [exec_entSample_active s ha, hb] at hx
    cases hx
    exact (emit_seedState _ b).trans (if_pos ⟨hbit, hword⟩)
  · cases hx
    rfl
  · rw [step_of_resets hr] at hs
    cases hs
    rfl
  · obtain ⟨hr, rfl⟩ | hp | ⟨i, ha, hx⟩ := step_cases hs
    · exact .inl ⟨hr, rfl⟩
    · obtain ⟨-, -, -, -, -, -, -, -, -, -, same⟩ := portEffect_frame hp
      exact absurd same hne
    · obtain ⟨rfl, hmove⟩ | ⟨rfl, hmove⟩ | ⟨rfl, hmove⟩ := exec_moves_seedState hx hne
      · exact .inr (.inl ⟨ha, hmove⟩)
      · exact .inr (.inr (.inl ⟨ha, hmove⟩))
      · exact .inr (.inr (.inr ⟨ha, hmove⟩))

end Sys2Proof.Machine
end

section
/-! Runs of port accesses: the cycles of `CLK` that a command in flight lasts, and a write of CTRL read back. -/

namespace Sys2Proof.Machine

theorem core_run_succ {s t : State} (h : step s = .next t) (k : Nat) :
    Sys2Proof.core.run (k + 1) s = Sys2Proof.core.run k t := by
  simp only [Host.Core.run, Sys2Proof.core, h]

/-- What `k` cycles of `CLK` leave of a command in flight, or of none. -/
def afterCycles (k : Nat) (f? : Option InFlight) : Option InFlight := (·.bind InFlight.afterCycle)^[k] f?

theorem afterCycles_succ (k : Nat) (f? : Option InFlight) :
    afterCycles (k + 1) f? = afterCycles k (f?.bind InFlight.afterCycle) := rfl

theorem afterCycles_none (k : Nat) : afterCycles k none = none := by
  induction k with
  | zero => rfl
  | succ k ih => exact ih

/-- Each cycle takes one of those left, and the last one ends the command (R199). -/
theorem afterCycles_isSome (k : Nat) : ∀ f : InFlight, 1 ≤ f.cyclesLeft →
    ((afterCycles k (some f)).isSome = true ↔ k < f.cyclesLeft) := by
  induction k with
  | zero => intro f hf; exact ⟨fun _ => hf, fun _ => rfl⟩
  | succ k ih =>
    intro f hf
    rw [afterCycles_succ, Option.bind_some]
    by_cases hlast : f.cyclesLeft ≤ 1
    · rw [afterCycle_last hlast, afterCycles_none]
      simp
      omega
    · rw [afterCycle_more (by omega), ih _ (by dsimp only; omega)]
      dsimp only
      omega

/-- A run of `CLK` cycles changes nothing but the command in flight. -/
theorem run_clks (k : Nat) (rest : List HostAction) : ∀ s : State, s.bus = List.replicate k .clk ++ rest →
    Sys2Proof.core.run k s = .next { s with bus := rest, inFlight := afterCycles k s.inFlight } := by
  induction k with
  | zero => intro s hb; cases s; cases hb; rfl
  | succ k ih =>
    intro s hb
    rw [core_run_succ (step_action hb), ih _ rfl]
    rfl

/-- Settles O15: the latency stands at the acceptance, and each cycle of `CLK` takes one of its cycles. -/
theorem busyLastsTheLatency : Obligations.BusyLastsTheLatency := by
  refine ⟨fun s w => ?_, fun s f rest k hf hcycles hb => ?_⟩
  · have accepted : ∃ t, issue w s = .next t ∧ t.inFlight = (s.accept w).inFlight := by
      cases hd : decode w with
      | error e => exact ⟨_, issue_error hd s, State.raise_inFlight _ e⟩
      | ok i =>
        obtain ⟨t, hx, -⟩ := exec_total i (s.accept w)
        obtain ⟨-, -, -, -, hfly, -⟩ := exec_leaves_host_fields hx
        exact ⟨t, (issue_ok hd s).trans hx, hfly⟩
    obtain ⟨t, ht, hfly⟩ := accepted
    exact ⟨t, _, ht, hfly, Nat.le_add_right 1 _, rfl⟩
  · refine ⟨_, run_clks k rest s hb, rfl, ?_, rfl⟩
    rw [hf]
    exact afterCycles_isSome k f hcycles

/-- RAW alone shows in CTRL (R32, R33). -/
theorem ctrl_of_raw {s : State} {v : Word} (h : s.raw = v.getLsbD 0) : s.ctrl = v &&& 1 := by
  rw [State.ctrl, h]
  exact (BitVec.and_one_eq_setWidth_ofBool_getLsbD).symm

theorem portWrite_ctrl {s : State} (hidle : s.inFlight = none) (v : Word) :
    portWrite 6 v s = .next { s with raw := v.getLsbD 0 } :=
  congrArg Host.Outcome.next (if_neg (by simp [hidle]))

theorem portRead_ctrl {s : State} (hidle : s.inFlight = none) : portRead 6 s = { s with rdata := s.ctrl } :=
  if_neg (by simp [hidle])

/-- Settles O18: CTRL keeps bit 0 of the write, and its read shows that bit alone. -/
theorem controlKeepsOnlyRaw : Obligations.ControlKeepsOnlyRaw := by
  intro s v rest hbusy hb
  have hidle : s.inFlight = none := s.busy_eq_false_iff.mp hbusy
  have written : step s = .next { s with bus := .read 6 :: rest, raw := v.getLsbD 0 } := by
    rw [step_action hb, hostAction, portWrite_ctrl]
    exact hidle
  have shown : step { s with bus := .read 6 :: rest, raw := v.getLsbD 0 } =
      .next { s with bus := rest, raw := v.getLsbD 0, rdata := v &&& 1 } := by
    rw [step_action rfl, hostAction, portRead_ctrl, ctrl_of_raw rfl]
    exact hidle
  exact ⟨_, (core_run_succ written 1).trans (core_run_succ shown 0), rfl, rfl, rfl, rfl⟩

end Sys2Proof.Machine
end

section
/-! The register port, access by access: what each write does (R58, R171) and what each read shows (R59, R60). -/

namespace Sys2Proof.Machine

/-! The steps that are a port access. -/

section
variable {s : State} {rest : List HostAction}

theorem step_write {index : BitVec 4} {v : Word} (h : s.bus = .write index v :: rest) :
    step s = portWrite index v { s with bus := rest } :=
  step_action h

theorem step_read {index : BitVec 4} (h : s.bus = .read index :: rest) :
    step s = .next (portRead index { s with bus := rest }) :=
  step_action h

theorem step_render {row : BitVec 5} (h : s.bus = .render row :: rest) :
    step s = .next (renderRead row { s with bus := rest }) :=
  step_action h

end

/-! Writes. -/

theorem portWrite_cmd (v : Word) (s : State) :
    portWrite 0 v s = if s.busy then .next (s.raise .busy) else issue v s := rfl

theorem portWrite_arg0 (v : Word) (s : State) :
    portWrite 1 v s = .next (if s.busy then s.raise .busy else { s with arg0 := v }) := rfl

theorem portWrite_arg1 (v : Word) (s : State) :
    portWrite 2 v s = .next (if s.busy then s.raise .busy else { s with arg1 := v }) := rfl

theorem portWrite_arg2 (v : Word) (s : State) :
    portWrite 3 v s = .next (if s.busy then s.raise .busy else { s with arg2 := v }) := rfl

theorem portWrite_raw (v : Word) (s : State) :
    portWrite 6 v s = .next (if s.busy then s.raise .busy else { s with raw := v.getLsbD 0 }) := rfl

/-- A write of STATUS clears the error by its bit 5 alone, busy or not (R30). -/
theorem portWrite_status (v : Word) (s : State) :
    portWrite 5 v s = .next { s with
      err := s.err && !v.getLsbD 5
      errcode := if v.getLsbD 5 then 0 else s.errcode } := by
  show Host.Outcome.next (if v.getLsbD 5 then s.clearError else s) = _
  cases v.getLsbD 5 <;> simp [State.clearError]

/-- The registers that a write can reach (R58). -/
theorem index_mem_of_writable {index : BitVec 4}
    (h : portReg index ∈ ([.cmd, .arg0, .arg1, .arg2, .status, .ctrl] : List PortReg)) :
    index ∈ ([0, 1, 2, 3, 5, 6] : List (BitVec 4)) := by
  revert index; decide

/-- A write of a read-only or reserved register is ignored, and is no error (R58). -/
theorem portWrite_ignored {index : BitVec 4} (h : index ∉ ([0, 1, 2, 3, 5, 6] : List (BitVec 4))) (v : Word) (s : State) :
    portWrite index v s = .next s := by
  cases hr : portReg index
  case cmd | arg0 | arg1 | arg2 | status | ctrl => exact absurd (index_mem_of_writable (by simp [hr])) h
  all_goals simp only [portWrite, hr]

/-- Settles O10: index by index, with the refused write as the record of BUSY. -/
theorem hostWriteTakesItsField : Obligations.HostWriteTakesItsField := by
  intro s rest v refused
  have busyRecorded : { s with bus := rest }.raise .busy = refused := raise_eq _ _
  refine ⟨fun h => ?_, fun h => ?_, fun h => ?_, fun h => ?_, fun h => ?_, fun h => ?_, fun index hi h => ?_⟩ <;>
    rw [step_write h]
  · rw [portWrite_cmd, busyRecorded]; rfl
  · rw [portWrite_arg0, busyRecorded]; rfl
  · rw [portWrite_arg1, busyRecorded]; rfl
  · rw [portWrite_arg2, busyRecorded]; rfl
  · exact portWrite_status v _
  · rw [portWrite_raw, busyRecorded]; rfl
  · exact portWrite_ignored hi v _

/-! Reads. -/

theorem portRead_idle {s : State} (h : s.busy = false) (index : BitVec 4) :
    portRead index s = { s with rdata := regValue (portReg index) s } :=
  if_neg (by simp [h])

theorem portRead_status (s : State) : portRead 5 s = { s with rdata := s.status } :=
  if_neg fun h => h.2 rfl

theorem portRead_busy {s : State} (h : s.busy = true) {index : BitVec 4} (hi : index ≠ 5) :
    portRead index s = { s with rdata := Config.busyRead s.draws, draws := s.draws + 1 } :=
  if_pos ⟨h, mt portReg_status hi⟩

/-! The packed registers as numbers. -/

/-- Two fields side by side as a sum, the upper one at its weight. -/
theorem toNat_append_eq_add {m n : Nat} (x : BitVec m) (y : BitVec n) : (x ++ y).toNat = x.toNat * 2 ^ n + y.toNat := by
  rw [BitVec.toNat_append, ← Nat.shiftLeft_add_eq_or_of_lt y.isLt, Nat.shiftLeft_eq]

/-- STATUS as the sum of its fields, each at its weight (R25). -/
theorem status_toNat (s : State) :
    s.status.toNat = s.lastValid.toNat * 2 ^ 24 + s.pairFirst.toNat * 2 ^ 23 + s.pairPhase.toNat * 2 ^ 22
      + s.wordcnt.toNat * 2 ^ 17 + s.bitcnt.toNat * 2 ^ 12 + s.errcode.toNat * 2 ^ 8 + s.mode.toNat * 2 ^ 6
      + s.err.toNat * 2 ^ 5 + s.stagnant.toNat * 2 ^ 4 + s.seedState.bits.toNat * 2 ^ 2 + s.seeded.toNat * 2
      + s.busy.toNat := by
  simp only [State.status, toNat_append_eq_add, BitVec.toNat_ofBool, BitVec.ofNat_eq_ofNat, BitVec.toNat_ofNat]
  omega

theorem ctrl_toNat (s : State) : s.ctrl.toNat = s.raw.toNat := by
  cases h : s.raw <;> simp [State.ctrl, h]

/-- Settles O11: the read shows the register at its index, and the narrow ones are zero-extended. -/
theorem hostReadReturnsTheRegister : Obligations.HostReadReturnsTheRegister := by
  intro s rest index hidle h
  have idle : { s with bus := rest }.busy = false := hidle
  have shown := step_read h
  rw [portRead_idle idle] at shown
  refine ⟨_, shown, rfl, ?zero, ?_, ?_, ?_, ?_, ?status, ?ctrl, ?energy, ?_, ?_, ?_, ?idx, ?_, ?_, ?_⟩
  case zero => rintro (rfl | rfl) <;> rfl
  case status =>
    rintro rfl
    refine (status_toNat s).trans ?_
    cases s.seedState <;> simp [SeedState.bits, hidle]
  case ctrl => rintro rfl; exact ctrl_toNat s
  case energy => rintro rfl; exact BitVec.toNat_setWidth_of_le (by decide)
  case idx => rintro rfl; exact BitVec.toNat_setWidth_of_le (by decide)
  all_goals rintro rfl; rfl

/-- Settles O12: STATUS shows itself at any time, and any other register draws a free value while `BUSY = 1`. -/
theorem readWhileBusyIsExactForStatusOnly : Obligations.ReadWhileBusyIsExactForStatusOnly := by
  intro s rest index hbusy h
  rw [step_read h]
  by_cases hi : index = 5
  · subst hi
    rw [portRead_status]
    exact ⟨_, rfl, rfl, fun _ => ⟨rfl, (status_getLsbD_zero s).trans hbusy⟩, fun hne => absurd rfl hne⟩
  · have busy : { s with bus := rest }.busy = true := hbusy
    rw [portRead_busy busy hi]
    exact ⟨_, rfl, rfl, fun h5 => absurd h5 hi, fun _ => ⟨rfl, rfl⟩⟩

end Sys2Proof.Machine
end

section
/-! The render port (R52) and the byte-addressed bus (R55, R56). -/

namespace Sys2Proof.Machine

/-! The render port. -/

theorem renderRead_busy {s : State} (h : s.busy = true) (row : BitVec 5) :
    renderRead row s = { s with rpData := Config.busyRender s.draws, draws := s.draws + 1 } :=
  if_pos h

theorem renderRead_row {s : State} (h : s.busy = false) {row : BitVec 5} {r : RowIndex} (hr : row.toNat = r.val) :
    renderRead row s = { s with rpData := s.grid[r] } := by
  simp only [renderRead, h, rowOperand_of_lt hr, Bool.false_eq_true, if_false]

theorem renderRead_beyond {s : State} (h : s.busy = false) {row : BitVec 5} (hr : 24 ≤ row.toNat) :
    renderRead row s = { s with rpData := 0 } := by
  simp only [renderRead, h, rowOperand_of_ge hr, Bool.false_eq_true, if_false]

/-- A read of the render port changes only what the model keeps of the port (R52). -/
theorem renderRead_frame (row : BitVec 5) (s : State) :
    renderRead row s = { s with rpData := (renderRead row s).rpData, draws := (renderRead row s).draws } := by
  unfold renderRead
  split
  · rfl
  · split <;> rfl

/-- Settles O13: the frame of the read, and its value in each of the three cases. -/
theorem renderPortShowsTheGrid : Obligations.RenderPortShowsTheGrid := by
  intro s rest row h
  refine ⟨_, step_render h, renderRead_frame row _, fun r hidle hr => ?_, fun hidle hr => ?_, fun hbusy => ?_⟩
  · exact congrArg State.rpData (renderRead_row (s := { s with bus := rest }) hidle hr)
  · exact congrArg State.rpData (renderRead_beyond (s := { s with bus := rest }) hidle hr)
  · exact congrArg State.rpData (renderRead_busy (s := { s with bus := rest }) hbusy row)

/-! The byte bus. -/

/-- The word of four lanes as a sum, lane k at weight `2 ^ (8 * k)` (R55). -/
theorem wordOfLanes_toNat (b0 b1 b2 b3 : Byte) :
    (wordOfLanes b0 b1 b2 b3).toNat = b0.toNat + 2 ^ 8 * b1.toNat + 2 ^ 16 * b2.toNat + 2 ^ 24 * b3.toNat := by
  simp only [wordOfLanes, toNat_append_eq_add]
  omega

theorem busIndex_aligned {offset : BitVec 6} {index : BitVec 4} (h : offset.toNat = 4 * index.toNat) :
    busIndex offset 4 = .ok index := by
  have aligned : offset.toNat % 4 = 0 := by omega
  have quarter : offset.extractLsb' 2 4 = index := by
    apply BitVec.eq_of_toNat_eq
    simp [h, Nat.shiftRight_eq_div_pow, index.isLt]
  simp [busIndex, aligned, quarter]

theorem busIndex_refused {offset : BitVec 6} {size : Nat} (h : size ≠ 4 ∨ offset.toNat % 4 ≠ 0) :
    ∃ r, busIndex offset size = .error r := by
  unfold busIndex
  by_cases hsize : size = 4
  · exact ⟨_, by rw [if_neg (not_not.mpr hsize), if_pos (h.resolve_left (not_not.mpr hsize))]⟩
  · exact ⟨_, if_pos hsize⟩

theorem busWrite_of_refused {offset : BitVec 6} {bytes : List Byte} {r : Refusal}
    (h : busIndex offset bytes.length = .error r) (s : State) : busWrite offset bytes s = .refused r := by
  simp only [busWrite, h]

theorem busRead_of_refused {offset : BitVec 6} {size : Nat} {r : Refusal} (h : busIndex offset size = .error r)
    (s : State) : busRead offset size s = .refused r := by
  simp only [busRead, h]

theorem busWrite_aligned {offset : BitVec 6} {index : BitVec 4} (h : offset.toNat = 4 * index.toNat)
    (b0 b1 b2 b3 : Byte) (s : State) :
    busWrite offset [b0, b1, b2, b3] s = portWrite index (wordOfLanes b0 b1 b2 b3) s := by
  simp [busWrite, busIndex_aligned h]

theorem busRead_aligned {offset : BitVec 6} {index : BitVec 4} (h : offset.toNat = 4 * index.toNat) (s : State) :
    busRead offset 4 s = .next (portRead index s) := by
  simp only [busRead, busIndex_aligned h]

/-- The accesses of R56 that have no meaning. -/
theorem hostAction_refused {a : HostAction} (h : a.Refused) (s : State) : ∃ r, hostAction a s = .refused r := by
  cases a <;> simp only [HostAction.Refused] at h
  case busWrite offset bytes =>
    obtain ⟨r, hr⟩ := busIndex_refused h
    exact ⟨r, busWrite_of_refused hr s⟩
  case busRead offset size =>
    obtain ⟨r, hr⟩ := busIndex_refused h
    exact ⟨r, busRead_of_refused hr s⟩

/-- Settles O14: an aligned access is the port access at a quarter of its offset, and `busIndex` refuses the others. -/
theorem byteBusTakesAlignedWordsOnly : Obligations.ByteBusTakesAlignedWordsOnly := by
  refine ⟨fun s rest index b0 b1 b2 b3 v offset hoffset hv => ⟨?_, ?_⟩, fun s rest a ha => ?_⟩
  · obtain rfl : v = wordOfLanes b0 b1 b2 b3 := BitVec.eq_of_toNat_eq (hv.trans (wordOfLanes_toNat b0 b1 b2 b3).symm)
    exact busWrite_aligned hoffset b0 b1 b2 b3 _
  · exact busRead_aligned hoffset _
  · rw [step_cons]
    exact hostAction_refused ha _

end Sys2Proof.Machine
end

section
/-! The decoder and the encoder against each other (R70 to R80), and the 89 legal words (R76). -/

namespace Sys2Proof

open Machine

/-! The checks of R78, one lemma per error. -/

section
variable {w : Word}

theorem decode_illegalOp (h : 13 ≤ (opField w).toNat) : decode w = .error .illegalOp := by
  simp only [decode, (operation_eq_none _ _).mpr h]

variable {i : Instr} (ho : operation (opField w) (rowField w) = some i)
include ho

theorem decode_reservedField (h : rsvField w ≠ 0) : decode w = .error .reservedField := by
  simp only [decode, ho, if_pos h]

variable (hr : rsvField w = 0)
include hr

theorem decode_unusedRow (ht : i.takesRow = false) (h : rowField w ≠ 0) : decode w = .error .reservedField := by
  simp only [decode, ho, hr, ht, h, ne_eq, not_true, not_false_iff, and_self, if_true, if_false]

theorem decode_badRow (ht : i.takesRow = true) (hw : i.wellFormed = false) : decode w = .error .badRow := by
  simp only [decode, ho, hr, ht, hw, ne_eq, not_true, Bool.true_eq_false, false_and, if_true, if_false]

end

/-! The opcode map in numbers. -/

theorem exists_operation {op : BitVec 4} (h : op.toNat < 13) (row : BitVec 5) : ∃ i, operation op row = some i :=
  Option.ne_none_iff_exists'.mp (by rw [ne_eq, operation_eq_none]; omega)

/-- The commands of R72 that take a ROW, by their OP. -/
theorem takesRow_iff (i : Instr) :
    i.takesRow = true ↔ i.op.toNat = 5 ∨ i.op.toNat = 6 ∨ i.op.toNat = 8 ∨ i.op.toNat = 9 := by
  cases i <;> simp [Instr.takesRow, Instr.op]

/-- The range check of R72, by OP and ROW. -/
theorem wellFormed_iff (i : Instr) :
    i.wellFormed = true ↔ (i.op.toNat = 5 ∨ i.op.toNat = 6 → i.rowOf.toNat < 24) ∧
      (i.op.toNat = 8 ∨ i.op.toNat = 9 → i.rowOf.toNat < 16) := by
  cases i <;> simp [Instr.wellFormed, Instr.op, Instr.rowOf]

theorem rowOf_eq_zero {i : Instr} (h : i.takesRow = false) : i.rowOf = 0 := by
  obtain ⟨-, -, hfree⟩ := operation_op (operation_op_rowOf i)
  exact hfree h

/-! The round trips. -/

/-- Settles O2: the fields of an encoding are the command's own, so it passes every check of R78. -/
theorem decodeEncodeRoundTrip : Obligations.DecodeEncodeRoundTrip := by
  intro i hw
  refine decode_of_checks ?_ (rsvField_encode i) (fun ht => ?_) hw
  · rw [opField_encode, rowField_encode, operation_op_rowOf]
  · rw [rowField_encode, rowOf_eq_zero ht]

theorem opcodeRow_matches_encode (i : Instr) : i.opcodeRow.matches (encode i) = true :=
  match i with
  | .nop => Laws.OpcodeRow.nop
  | .rowcalc => Laws.OpcodeRow.rowcalc
  | .evolve => Laws.OpcodeRow.evolve
  | .update => Laws.OpcodeRow.update
  | .trigger => Laws.OpcodeRow.trigger
  | .gridRd row => Laws.OpcodeRow.gridRd row
  | .gridWr row => Laws.OpcodeRow.gridWr row
  | .prngNext => Laws.OpcodeRow.prngNext
  | .prngRd row => Laws.OpcodeRow.prngRd row
  | .prngWr row => Laws.OpcodeRow.prngWr row
  | .prngIdx => Laws.OpcodeRow.prngIdx
  | .seedStart => Laws.OpcodeRow.seedStart
  | .entSample => Laws.OpcodeRow.entSample

/-- Settles O3: the checks fix every bit of the word, and each encoding is listed by its own row of the map. -/
theorem decodedWordIsItsEncoding : Obligations.DecodedWordIsItsEncoding := by
  intro w i h
  have henc : encode i = w := encode_of_decode h
  obtain ⟨-, -, -, hw⟩ := decode_eq_ok h
  exact ⟨henc, hw, henc ▸ opcodeRow_matches_encode i⟩

/-! The order of the checks. -/

/-- Settles O5: each clause is one check of the decoder, on the fields as numbers. -/
theorem decodeChecksInOrder : Obligations.DecodeChecksInOrder := by
  intro w op row rsv usesRow
  have hop : (opField w).toNat = op := opField_toNat w
  have hrow : (rowField w).toNat = row := rowField_toNat w
  have hrow0 : rowField w = 0 ↔ row = 0 := rowField_eq_zero w
  have hrsv : rsvField w = 0 ↔ rsv = 0 := rsvField_eq_zero w
  by_cases h13 : 13 ≤ op
  · refine ⟨fun _ => decode_illegalOp (hop.symm ▸ h13), ?_, ?_, ?_, ?_, ?_⟩ <;> intros <;> omega
  obtain ⟨i, ho⟩ := exists_operation (op := opField w) (by omega) (rowField w)
  obtain ⟨hiop, htaken, -⟩ := operation_op ho
  have takes : i.takesRow = true ↔ usesRow := by rw [takesRow_iff, hiop, hop]
  have frees : i.takesRow = false ↔ ¬ usesRow := by rw [← takes, Bool.not_eq_true]
  have legal (hr : i.rowOf.toNat = row) :
      i.wellFormed = true ↔ (op = 5 ∨ op = 6 → row < 24) ∧ (op = 8 ∨ op = 9 → row < 16) := by
    rw [wellFormed_iff, hiop, hop, hr]
  have taken (hu : usesRow) : i.rowOf.toNat = row := by rw [htaken (takes.mpr hu), hrow]
  have outOfRange (hr : rsv = 0) (hu : usesRow)
      (hn : ¬ ((op = 5 ∨ op = 6 → row < 24) ∧ (op = 8 ∨ op = 9 → row < 16))) : decode w = .error .badRow :=
    decode_badRow ho (hrsv.mpr hr) (takes.mpr hu) (by rwa [← Bool.not_eq_true, legal (taken hu)])
  refine ⟨fun h => absurd h h13, fun _ hr => decode_reservedField ho (mt hrsv.mp hr),
    fun _ hr hu hne => decode_unusedRow ho (hrsv.mpr hr) (frees.mpr hu) (mt hrow0.mp hne),
    fun hr hgrid hge => outOfRange hr (by omega) (by omega), fun hr hslot hge => outOfRange hr (by omega) (by omega),
    fun _ hr hfree hgrid hslot => ?_⟩
  have carried : i.rowOf.toNat = row := by
    by_cases hu : usesRow
    · exact taken hu
    · rw [rowOf_eq_zero (frees.mpr hu), hfree hu]; rfl
  exact ⟨i, decode_of_checks ho (hrsv.mpr hr) (fun ht => hrow0.mpr (hfree (frees.mp ht)))
    ((legal carried).mpr ⟨hgrid, hslot⟩), hiop ▸ hop, carried⟩

/-- Settles O1: twelve closed words, on each of which the decoder runs. -/
theorem workedEncodingsDecode : Obligations.WorkedEncodingsDecode := by
  unfold Obligations.WorkedEncodingsDecode
  decide

/-! The legal words. -/

/-- The well-formed commands, in the order in which `legalWords` lists their words. -/
def legalCommands : List Instr :=
  ([.nop, .rowcalc, .evolve, .update, .trigger, .prngNext, .prngIdx, .seedStart, .entSample] : List Instr)
    ++ (List.range 24).map (fun r => Instr.gridRd (BitVec.ofNat 5 r))
    ++ (List.range 24).map (fun r => Instr.gridWr (BitVec.ofNat 5 r))
    ++ (List.range 16).map (fun r => Instr.prngRd (BitVec.ofNat 5 r))
    ++ (List.range 16).map (fun r => Instr.prngWr (BitVec.ofNat 5 r))

theorem legalWords_eq : legalWords = legalCommands.map encode := by decide +kernel

theorem legalWords_nodup : legalWords.Nodup := by decide +kernel

theorem wellFormed_of_mem_legalCommands : ∀ i ∈ legalCommands, i.wellFormed = true := by decide +kernel

theorem mem_legalCommands {i : Instr} : i ∈ legalCommands ↔ i.wellFormed = true := by
  refine ⟨wellFormed_of_mem_legalCommands i, fun h => ?_⟩
  simp only [legalCommands, List.mem_append, List.mem_map, List.mem_range]
  cases i with
  | gridRd row => exact .inl (.inl (.inl (.inr ⟨row.toNat, of_decide_eq_true h, by simp⟩)))
  | gridWr row => exact .inl (.inl (.inr ⟨row.toNat, of_decide_eq_true h, by simp⟩))
  | prngRd row => exact .inl (.inr ⟨row.toNat, of_decide_eq_true h, by simp⟩)
  | prngWr row => exact .inr ⟨row.toNat, of_decide_eq_true h, by simp⟩
  | nop | rowcalc | evolve | update | trigger | prngNext | prngIdx | seedStart | entSample =>
    exact .inl (.inl (.inl (.inl (by decide))))

/-- The words that decode are the encodings of the well-formed commands, which the list gives. -/
theorem decodes_iff_mem_legalWords (w : Word) : (∃ i, decode w = .ok i) ↔ w ∈ legalWords := by
  rw [legalWords_eq, List.mem_map]
  constructor
  · rintro ⟨i, h⟩
    obtain ⟨-, -, -, hw⟩ := decode_eq_ok h
    exact ⟨i, mem_legalCommands.mpr hw, encode_of_decode h⟩
  · rintro ⟨i, hi, rfl⟩
    exact ⟨i, decodeEncodeRoundTrip i (mem_legalCommands.mp hi)⟩

/-- Settles O4: a word that is not listed does not decode, and `issue` then records the decoder's error alone. -/
theorem legalWordsAreTheListedEightyNine : Obligations.LegalWordsAreTheListedEightyNine := by
  refine ⟨rfl, legalWords_nodup, decodes_iff_mem_legalWords, fun w hw => ?_⟩
  cases hd : decode w with
  | ok i => exact absurd ((decodes_iff_mem_legalWords w).mp ⟨i, hd⟩) hw
  | error e => exact ⟨e, rfl, issue_error hd⟩

end Sys2Proof
end

section
/-! Commands as the host issues them: what a discard changes, a whole line of a host program, and POLL against the reads of
STATUS it stands for. -/

namespace Sys2Proof.Machine

/-! Discards. -/

/-- PRNG_NEXT and TRIGGER record UNSEEDED and go on (R139, R170). -/
theorem exec_unseeded {s : State} (h : s.seeded = false) {i : Instr} (hi : i = .prngNext ∨ i = .trigger) :
    ∃ t u, exec i s = .next t ∧ exec i { s with seeded := true } = .next u ∧
      t = { u with seeded := false, err := true, errcode := if s.err then s.errcode else 6 } := by
  have unseeded : s.checkSeeded = { s with seeded := false, err := true, errcode := if s.err then s.errcode else 6 } := by
    rw [checkSeeded_of_unseeded h, raise_eq, ← h]; rfl
  have seeded : { s with seeded := true }.checkSeeded = { s with seeded := true } := checkSeeded_of_seeded rfl
  obtain rfl | rfl := hi
  · refine ⟨_, _, rfl, rfl, ?_⟩
    rw [unseeded, seeded]; rfl
  · refine ⟨_, _, exec_trigger rfl, exec_trigger rfl, ?_⟩
    rw [unseeded, seeded]; rfl

/-- Settles O7: every discard is the record of its error, and UNSEEDED is recorded beside the command's own effect. -/
theorem discardedCommandChangesOnlyTheError : Obligations.DiscardedCommandChangesOnlyTheError := by
  have badRow (s : State) {i : Instr} (hw : i.wellFormed = false) :
      exec i s = .next { s with err := true, errcode := if s.err then s.errcode else 4 } := by
    rw [exec_illFormed hw, raise_eq]; rfl
  refine ⟨fun s w e hd => ?_, fun s hi => ?_, fun s ha => ?_, fun s row hr i hi => ?_, fun s row hr i hi => ?_,
    fun s hs i hi => exec_unseeded hs hi⟩
  · rw [issue_error hd, raise_eq]; rfl
  · rw [exec_seedStart_discarded hi, raise_eq]; rfl
  · rw [exec_entSample_discarded ha, raise_eq]; rfl
  · obtain rfl | rfl := hi <;> exact badRow s (decide_eq_false (Nat.not_lt.mpr hr))
  · obtain rfl | rfl := hi <;> exact badRow s (decide_eq_false (Nat.not_lt.mpr hr))

/-! POLL. -/

/-- A read of STATUS and a cycle of `CLK`, `n` times: what is left of the command in flight, and the last read on `rdata`. -/
theorem run_statusReads (n k : Nat) (rest : List HostAction) : ∀ s : State,
    s.bus = (List.replicate n [HostAction.read 5, HostAction.clk]).flatten ++ rest →
    ∃ d : Word, Sys2Proof.core.run (2 * n + k) s =
      Sys2Proof.core.run k { s with bus := rest, inFlight := afterCycles n s.inFlight, rdata := d } := by
  induction n with
  | zero =>
    intro s hb
    refine ⟨s.rdata, ?_⟩
    rw [Nat.mul_zero, Nat.zero_add]
    cases s; cases hb; rfl
  | succ n ih =>
    intro s hb
    rw [List.replicate_succ, List.flatten_cons] at hb
    have shown := step_read hb
    rw [portRead_status] at shown
    obtain ⟨d, hd⟩ := ih { s with
      bus := (List.replicate n [HostAction.read 5, HostAction.clk]).flatten ++ rest
      inFlight := s.inFlight.bind InFlight.afterCycle
      rdata := s.status } rfl
    refine ⟨d, ?_⟩
    rw [show 2 * (n + 1) + k = 2 * n + k + 1 + 1 by omega]
    exact (core_run_succ shown _).trans ((core_run_succ (step_cons { s with rdata := s.status } .clk _) _).trans hd)

/-- Settles O16: the reads before the last cycle leave the command in flight, and the one after it is what POLL shows. -/
theorem pollIsReadingStatusUntilIdle : Obligations.PollIsReadingStatusUntilIdle := by
  intro s rest f hf hcycles
  have ended : afterCycles f.cyclesLeft s.inFlight = none := by
    have h := afterCycles_isSome f.cyclesLeft f hcycles
    rw [hf]
    simpa using h
  obtain ⟨d, hd⟩ := run_statusReads f.cyclesLeft 1 (.read 5 :: rest)
    { s with bus := (List.replicate f.cyclesLeft [HostAction.read 5, HostAction.clk]).flatten ++ .read 5 :: rest } rfl
  refine ⟨_, step_cons s _ rest, rfl, status_getLsbD_zero _, ?_⟩
  rw [hd, ended, core_run_succ (step_read rfl), portRead_status]
  rfl

/-! A command line. -/

/-- `s` with the rest of the bus and the word accepted: the state on which a step runs the word's command. -/
def State.issued (s : State) (rest : List HostAction) (w : Word) : State := { s with bus := rest }.accept w

/-! The acceptance commutes with every operation that commands are made of. -/

section
variable (s : State) (rest : List HostAction) (w : Word)

@[simp] theorem issued_grid : (s.issued rest w).grid = s.grid := rfl
@[simp] theorem issued_ps : (s.issued rest w).ps = s.ps := rfl
@[simp] theorem issued_idx : (s.issued rest w).idx = s.idx := rfl
@[simp] theorem issued_cfg : (s.issued rest w).cfg = s.cfg := rfl
@[simp] theorem issued_drawn : (s.issued rest w).drawn = s.drawn := rfl

theorem setResult_issued (v : Word) :
    (s.issued rest w).setResult v = (s.setResult v).issued rest w := rfl

theorem bookkeep_issued (c : Word) :
    (s.issued rest w).bookkeep c = (s.bookkeep c).issued rest w := rfl

theorem draw_issued : (s.issued rest w).draw = s.draw.issued rest w := by
  unfold State.draw
  rw [issued_ps, issued_idx]
  rfl

theorem generation_issued : (s.issued rest w).generation = s.generation.issued rest w := by
  unfold State.generation
  rw [issued_grid]
  rfl

theorem raise_issued (e : CmdError) :
    (s.issued rest w).raise e = (s.raise e).issued rest w := by
  rw [raise_eq, raise_eq]; rfl

theorem checkSeeded_issued : (s.issued rest w).checkSeeded = s.checkSeeded.issued rest w := by
  cases h : s.seeded
  · rw [checkSeeded_of_unseeded h, ← raise_issued]; exact checkSeeded_of_unseeded h
  · rw [checkSeeded_of_seeded h]; exact checkSeeded_of_seeded h

theorem completeWord_issued : (s.issued rest w).completeWord = s.completeWord.issued rest w := by
  have same : (s.issued rest w).wordcnt = s.wordcnt := rfl
  unfold State.completeWord
  by_cases h : s.wordcnt + 1 = 16
  · simp only [same, h, if_true]; rfl
  · simp only [same, h, if_false]; rfl

theorem emit_issued (b : Bool) :
    (s.issued rest w).emit b = (s.emit b).issued rest w := by
  have same : (s.issued rest w).bitcnt = s.bitcnt := rfl
  unfold State.emit
  by_cases h : s.bitcnt.toNat + 1 = 32
  · simp only [same, h, if_true]
    exact completeWord_issued { s with acc := (s.acc <<< 1) ||| (BitVec.ofBool b).setWidth 32 } rest w
  · simp only [same, h, if_false]; rfl

end

section
variable {s : State} (hidle : s.inFlight = none) (rest : List HostAction) (w : Word)
include hidle

theorem operand0_issued : (s.issued rest w).operand0 = s.operand0 := (operand0_of_idle hidle).symm
theorem operand1_issued : (s.issued rest w).operand1 = s.operand1 := (operand1_of_idle hidle).symm
theorem operand2_issued : (s.issued rest w).operand2 = s.operand2 := (operand2_of_idle hidle).symm

theorem sampled_issued : (s.issued rest w).sampled = s.sampled.issued rest w := by
  unfold State.sampled
  rw [operand0_issued hidle]
  rfl

theorem emits_issued : (s.issued rest w).emits? (s.issued rest w).operand0 = s.emits? s.operand0 := by
  rw [operand0_issued hidle]
  rfl

end

theorem exec_rowcalc (s : State) :
    exec .rowcalc s = .next (s.setResult (nextRow s.operand0 s.operand1 s.operand2)) := rfl

theorem exec_evolve (s : State) :
    exec .evolve s = .next (s.generation.setResult (checksum s.generation.grid)) := rfl

theorem exec_prngNext (s : State) :
    exec .prngNext s = .next (s.checkSeeded.draw.setResult s.checkSeeded.draw.drawn) := rfl

/-- A command in flight has its own effect: the acceptance changes no field that a command reads but its operands, and their
snapshot is the registers (R85, R86). -/
theorem exec_issued {i : Instr} {s t : State} (hidle : s.inFlight = none) (rest : List HostAction) (w : Word)
    (hx : exec i s = .next t) : exec i (s.issued rest w) = .next (t.issued rest w) := by
  cases commandEffect_of_exec hx with
  | nop => rfl
  | evolve => rw [exec_evolve, generation_issued, issued_grid, setResult_issued]
  | update => rw [exec_update, generation_issued, issued_grid, bookkeep_issued]
  | rowcalc =>
    rw [exec_rowcalc, operand0_issued hidle, operand1_issued hidle, operand2_issued hidle, setResult_issued]
  | trigger hu =>
    subst hu
    have energised : { (s.issued rest w).checkSeeded with energy := (s.issued rest w).cfg.maxCount } =
        State.issued { s.checkSeeded with energy := s.cfg.maxCount } rest w := by
      rw [checkSeeded_issued, issued_cfg]; rfl
    rw [exec_trigger energised.symm, draw_issued, draw_issued, issued_drawn, issued_drawn, issued_grid]
    rfl
  | gridRd hr => exact exec_gridRd hr _
  | gridWr hr => rw [exec_gridWr hr, operand0_issued hidle]; rfl
  | prngNext => rw [exec_prngNext, checkSeeded_issued, draw_issued, issued_drawn, setResult_issued]
  | prngRd hr => exact exec_prngRd hr _
  | prngWr hr => rw [exec_prngWr hr, operand0_issued hidle]; rfl
  | prngIdx => rw [← operand0_issued hidle rest w]; rfl
  | seedStart hi => exact exec_seedStart_idle hi
  | sampleKept ha hn =>
    rw [exec_entSample_active (s.issued rest w) ha, emits_issued hidle, hn, sampled_issued hidle]
  | sampleEmits ha hb =>
    rw [exec_entSample_active (s.issued rest w) ha, emits_issued hidle, hb, sampled_issued hidle]
    exact congrArg Host.Outcome.next (emit_issued s.sampled rest w _)
  | badRow hw => rw [exec_illFormed hw, raise_issued]
  | seedStartDiscarded hi => rw [← raise_issued]; exact exec_seedStart_discarded hi
  | entSampleDiscarded ha => rw [← raise_issued]; exact exec_entSample_discarded ha

/-- A CMD write and its POLL on an idle block (R80, R85). -/
theorem steps_of_commandLine {i : Instr} {s u : State} {w : Word} {rest : List HostAction} (hd : decode w = .ok i)
    (hidle : s.inFlight = none) (hb : s.bus = .write 0 w :: .poll :: rest) (hx : exec i s = .next u) :
    step s = .next (u.issued (.poll :: rest) w) ∧
    step (u.issued (.poll :: rest) w) = .next (poll (u.issued rest w)) := by
  refine ⟨?_, step_cons (u.issued rest w) .poll rest⟩
  have idle : ¬ { s with bus := .poll :: rest }.busy = true := by simpa using hidle
  rw [step_write hb, portWrite_cmd, if_neg idle, issue_ok hd]
  exact exec_issued hidle _ _ hx

/-- Settles O19: the word is accepted and runs, then POLL ends the command and shows STATUS. -/
theorem commandLineRunsItsCommand : Obligations.CommandLineRunsItsCommand := by
  intro s i rest hidle hw hb
  obtain ⟨u, hx, -⟩ := exec_total i s
  obtain ⟨accepted, polled⟩ := steps_of_commandLine (decodeEncodeRoundTrip i hw) hidle hb hx
  obtain ⟨-, -, -, -, -, -, -, -, -, hdraws⟩ := exec_leaves_host_fields hx
  refine ⟨u, _, hx, (core_run_succ accepted 1).trans (core_run_succ polled 0), ?_, rfl⟩
  rw [← hdraws]; rfl

theorem decode_nop : decode 0x00000000 = .ok .nop := by decide

/-- Settles O28: NOP's own effect is none, the checks of R78 refuse its other words, and a busy block records BUSY. -/
theorem nopChangesNothing : Obligations.NopChangesNothing := by
  refine ⟨fun s => rfl, fun s rest hbusy hb => ?_, decode_nop, fun w hop hw => ?_, fun s rest hbusy hb => ?_⟩
  · have hidle : s.inFlight = none := s.busy_eq_false_iff.mp hbusy
    obtain ⟨accepted, polled⟩ := steps_of_commandLine decode_nop hidle hb rfl
    refine ⟨_, _, accepted, rfl, polled, rfl, ?_⟩
    cases s; cases hidle; rfl
  · have nonzero : w.toNat ≠ 0 := fun h => hw (BitVec.eq_of_toNat_eq h)
    obtain ⟨-, reserved, unused, -⟩ := decodeChecksInOrder w
    by_cases hrsv : w.toNat / 512 = 0
    · exact unused (by omega) hrsv (by omega) (by omega)
    · exact reserved (by omega) hrsv
  · obtain ⟨written, -⟩ := hostWriteTakesItsField s rest 0
    rw [written hb, if_pos hbusy]

end Sys2Proof.Machine
end

section
/-! A CMD write that decodes, and the totality of the commands and of the step (R91, R92, R200). -/

namespace Sys2Proof.Machine

/-- A CMD write on an idle block runs the command on the state that its acceptance leaves (R85). -/
theorem step_of_acceptedWord {i : Instr} {s : State} {w : Word} {rest : List HostAction} (hd : decode w = .ok i)
    (hidle : s.inFlight = none) (hb : s.bus = .write 0 w :: rest) : step s = exec i (s.issued rest w) := by
  have idle : ¬ { s with bus := rest }.busy = true := by simpa using hidle
  rw [step_write hb, portWrite_cmd, if_neg idle, issue_ok hd]
  rfl

/-- Settles O6: `withFetchWord` leaves no command in flight and the write oldest on the bus, so both clauses are one
acceptance. -/
theorem stepRunsDecodedCommand : Obligations.StepRunsDecodedCommand := by
  refine fun s w i hd => ⟨fun rest hidle hb => step_of_acceptedWord hd hidle hb, fun n hn hw => ?_⟩
  have placed : (s.withFetchWord 32 n).bus = .write 0 w :: s.bus := by
    rw [State.withFetchWord, Nat.mod_eq_of_lt hn, hw]
  exact step_of_acceptedWord hd rfl placed

/-- A word written to CMD is accepted whether it decodes or not (R85, R170). -/
theorem issue_total (w : Word) (s : State) : ∃ t, issue w s = .next t := by
  cases hd : decode w with
  | error e => exact ⟨_, issue_error hd s⟩
  | ok i =>
    obtain ⟨t, hx, -⟩ := exec_total i (s.accept w)
    exact ⟨t, (issue_ok hd s).trans hx⟩

theorem portWrite_total (index : BitVec 4) (v : Word) (s : State) : ∃ t, portWrite index v s = .next t := by
  by_cases hi : index ∈ ([0, 1, 2, 3, 5, 6] : List (BitVec 4))
  · simp only [List.mem_cons, List.not_mem_nil, or_false] at hi
    obtain rfl | rfl | rfl | rfl | rfl | rfl := hi
    · rw [portWrite_cmd]
      split
      · exact ⟨_, rfl⟩
      · exact issue_total v s
    · exact ⟨_, portWrite_arg0 v s⟩
    · exact ⟨_, portWrite_arg1 v s⟩
    · exact ⟨_, portWrite_arg2 v s⟩
    · exact ⟨_, portWrite_status v s⟩
    · exact ⟨_, portWrite_raw v s⟩
  · exact ⟨s, portWrite_ignored hi v s⟩

/-- An aligned offset is that of a register (R55). -/
theorem exists_index_of_aligned {offset : BitVec 6} (h : offset.toNat % 4 = 0) :
    ∃ index : BitVec 4, offset.toNat = 4 * index.toNat :=
  ⟨BitVec.ofNat 4 (offset.toNat / 4), by rw [BitVec.toNat_ofNat]; omega⟩

/-- The accesses of R56 are the only actions without a next state. -/
theorem hostAction_total {a : HostAction} (h : ¬ a.Refused) (s : State) : ∃ t, hostAction a s = .next t := by
  cases a with
  | write index v => exact portWrite_total index v s
  | read index => exact ⟨_, rfl⟩
  | render row => exact ⟨_, rfl⟩
  | busWrite offset bytes =>
    obtain ⟨hlength, haligned⟩ : bytes.length = 4 ∧ offset.toNat % 4 = 0 := by simpa [HostAction.Refused] using h
    obtain ⟨index, hindex⟩ := exists_index_of_aligned haligned
    obtain ⟨b0, b1, b2, b3, rfl⟩ := List.length_eq_four.mp hlength
    obtain ⟨t, ht⟩ := portWrite_total index (wordOfLanes b0 b1 b2 b3) s
    exact ⟨t, (busWrite_aligned hindex b0 b1 b2 b3 s).trans ht⟩
  | busRead offset size =>
    obtain ⟨rfl, haligned⟩ : size = 4 ∧ offset.toNat % 4 = 0 := by simpa [HostAction.Refused] using h
    obtain ⟨index, hindex⟩ := exists_index_of_aligned haligned
    exact ⟨_, busRead_aligned hindex s⟩
  | poll => exact ⟨_, rfl⟩
  | clk => exact ⟨_, rfl⟩
  | rst => exact ⟨_, rfl⟩

/-- Settles O17: every command answers by its effect, every action not refused by its own totality, and there is no fault. -/
theorem nothingHangsOrFaults : Obligations.NothingHangsOrFaults := by
  refine ⟨fun i s => ?_, fun s allowed => ?_, fun s f => nomatch f⟩
  · obtain ⟨t, hx, -⟩ := exec_total i s
    exact ⟨t, hx⟩
  · cases hb : s.bus with
    | nil => exact ⟨s, step_idle hb⟩
    | cons a rest =>
      rw [step_action hb]
      exact hostAction_total (allowed a (by rw [hb]; rfl)) _

end Sys2Proof.Machine
end

section
/-! The automaton's commands: ROWCALC and EVOLVE against B3/S23 (R99), the rows of the grid (R106, R107), and what the
checksum sees of one row (R101). -/

namespace Sys2Proof.Machine

/-- Bit by bit, `next_row` is the rule by birth and survival. -/
theorem getLsbD_nextRow_eq_lifeRule (above self below : Word) (c : ColIndex) :
    (nextRow above self below).getLsbD c.val = lifeRule (self.getLsbD c.val) (rowNeighbours above self below c) := by
  rw [getLsbD_nextRow, nextCell_eq_lifeRule]

/-- Settles O29: RESULT is `next_row` of the three operands. -/
theorem rowcalcIsBirthThreeSurviveTwoThree : Obligations.RowcalcIsBirthThreeSurviveTwoThree := fun s =>
  ⟨_, exec_rowcalc s, rfl, getLsbD_nextRow_eq_lifeRule s.operand0 s.operand1 s.operand2⟩

/-- The neighbours of a cell on the torus are those of its column in its row and the rows on either side (R103). -/
theorem liveNeighbours_eq_rowNeighbours (g : Grid) (r : RowIndex) (c : ColIndex) :
    liveNeighbours g r c = rowNeighbours g[(r - 1 : RowIndex)] g[r] g[(r + 1 : RowIndex)] c := rfl

theorem alive_nextGrid (g : Grid) (r : RowIndex) (c : ColIndex) :
    alive (nextGrid g) r c = lifeRule (alive g r c) (liveNeighbours g r c) := by
  rw [alive, getElem_nextGrid, getLsbD_nextRow_eq_lifeRule, liveNeighbours_eq_rowNeighbours, alive]

/-- A generation and its value write the grid, the scratch rows and RESULT, and nothing else (R103, R105). -/
theorem generation_setResult (s : State) (v : Word) :
    s.generation.setResult v = { s with grid := nextGrid s.grid, scratch := s.grid, result := v } := by
  unfold State.setResult State.generation
  rfl

/-- Settles O30: the new grid is `nextGrid` of the old one, cell by cell the rule. -/
theorem evolveIsLifeOnTheTorus : Obligations.EvolveIsLifeOnTheTorus := by
  intro s
  refine ⟨_, exec_evolve s, alive_nextGrid s.grid, ?_, ?_⟩
  · rw [State.setResult_result, State.setResult_grid]
  · rw [generation_setResult]

/-- The checksum's fold loses nothing of one word: the register after the word differs, and no later word undoes that. -/
theorem foldl_crcWord_set_injective {v : Word} (l : List Word) : ∀ (k : Nat) (hk : k < l.length) (c : Word),
    (l.set k v).foldl crcWord c = l.foldl crcWord c → v = l[k] := by
  induction l with
  | nil => intro k hk; exact absurd hk (Nat.not_lt_zero k)
  | cons w l ih =>
    intro k hk c h
    cases k with
    | zero => exact crcWord_right_injective (foldl_crcWord_injective l _ _ h)
    | succ k => exact ih k (Nat.lt_of_succ_lt_succ hk) (crcWord c w) h

/-- Settles O32: equal checksums would make the row equal. -/
theorem checksumSeesEveryOneRowChange : Obligations.ChecksumSeesEveryOneRowChange := by
  intro g r v changed same
  rw [checksum, checksum, Vector.toList_set] at same
  exact changed (foldl_crcWord_set_injective g.toList r.val (by simp) _ same)

/-- Settles O33: on a row 0..23 the commands are `setResult` and `setRow`. -/
theorem gridRowsReadAndWrite : Obligations.GridRowsReadAndWrite := by
  refine fun s row r hr => ⟨exec_gridRd hr s, _, exec_gridWr hr s, rfl, ?_, fun q hq => ?_⟩
  · rw [getElem_setRow, if_pos rfl]
  · rw [getElem_setRow, if_neg hq.symm]

end Sys2Proof.Machine
end

section
/-! UPDATE, one after the other: the judgement on the old history, the energy law and the shift (R116 to R120), and what
they make of a grid of period 1 or 2 (R125). -/

namespace Sys2Proof.Machine

/-- The state that one UPDATE leaves (R116). -/
def State.updated (s : State) : State := s.generation.bookkeep (checksum s.generation.grid)

theorem exec_update_updated (s : State) : exec .update s = .next s.updated := exec_update s

@[simp] theorem updated_grid (s : State) : s.updated.grid = nextGrid s.grid := by simp [State.updated]
@[simp] theorem updated_scratch (s : State) : s.updated.scratch = s.grid := by simp [State.updated]
@[simp] theorem updated_hist0 (s : State) : s.updated.hist0 = checksum (nextGrid s.grid) := by simp [State.updated]
@[simp] theorem updated_hist1 (s : State) : s.updated.hist1 = s.hist0 := by simp [State.updated]
@[simp] theorem updated_hist2 (s : State) : s.updated.hist2 = s.hist1 := by simp [State.updated]
@[simp] theorem updated_result (s : State) : s.updated.result = checksum (nextGrid s.grid) := by simp [State.updated]

/-- UPDATE writes the grid, the scratch rows, RESULT, STAGNANT, ENERGY and the history, and nothing else (R116). -/
theorem updated_frame (s : State) :
    s.updated = { s with
      grid := s.updated.grid, scratch := s.updated.scratch, result := s.updated.result, stagnant := s.updated.stagnant
      energy := s.updated.energy, hist0 := s.updated.hist0, hist1 := s.updated.hist1, hist2 := s.updated.hist2 } := by
  simp only [State.updated, State.bookkeep, State.generation]

/-- UPDATE judges the new checksum against the history as it stood before it (R117). -/
theorem updated_stagnant_iff (s : State) : s.updated.stagnant = true ↔
    checksum (nextGrid s.grid) = s.hist0 ∨ (checksum (nextGrid s.grid) = s.hist1 ∧ s.hist0 = s.hist2) := by
  simp [State.updated, stagnation]

theorem updated_not_stagnant_iff (s : State) : s.updated.stagnant = false ↔
    checksum (nextGrid s.grid) ≠ s.hist0 ∧ (checksum (nextGrid s.grid) = s.hist1 → s.hist0 ≠ s.hist2) := by
  rw [← Bool.not_eq_true, updated_stagnant_iff, not_or, not_and]

theorem updated_energy_toNat (s : State) :
    s.updated.energy.toNat = if s.updated.stagnant then 0 else s.energy.toNat - 1 := by
  simp [State.updated, energyAfter_toNat]

theorem updated_energy_of_stagnant {s : State} (h : s.updated.stagnant = true) : s.updated.energy = 0 := by
  apply BitVec.eq_of_toNat_eq
  rw [updated_energy_toNat, if_pos h]
  rfl

theorem updated_energy_le (s : State) : s.updated.energy.toNat ≤ s.energy.toNat - 1 := by
  rw [updated_energy_toNat]
  split <;> omega

/-- Settles O34: both commands leave the same generation, and only UPDATE judges it and shifts the history. -/
theorem updateJudgesAndShifts : Obligations.UpdateJudgesAndShifts := by
  intro s
  refine ⟨_, _, exec_update_updated s, exec_evolve s, ?_⟩
  simpa [updated_stagnant_iff, updated_energy_toNat] using updated_frame s

/-! Runs of UPDATE. -/

/-- A run of UPDATEs iterates the state that one of them leaves. -/
theorem execAll_updates (n : Nat) : ∀ s : State,
    execAll (List.replicate n .update) s = .next (State.updated^[n] s) := by
  induction n with
  | zero => exact fun s => rfl
  | succ n ih => exact fun s => ih s.updated

theorem updates_energy_le (s : State) (n : Nat) : (State.updated^[n] s).energy.toNat ≤ s.energy.toNat - n := by
  induction n with
  | zero => exact Nat.le_refl _
  | succ n ih =>
    rw [Function.iterate_succ_apply']
    have := updated_energy_le (State.updated^[n] s)
    omega

/-- Settles O38: each UPDATE takes at least 1. -/
theorem updatesRunTheEnergyDown : Obligations.UpdatesRunTheEnergyDown := fun s n =>
  ⟨_, execAll_updates n s, updates_energy_le s n⟩

/-! Grids of period 1 and 2 (R125). -/

/-- Against the zeros of the reset history only the checksum 0 looks stagnant. -/
theorem firstUpdate_not_stagnant {s : State} (h0 : s.hist0 = 0) (h1 : s.hist1 = 0)
    (hc : checksum (nextGrid s.grid) ≠ 0) : s.updated.stagnant = false :=
  (updated_not_stagnant_iff s).2 ⟨fun h => hc (h.trans h0), fun h => absurd (h.trans h1) hc⟩

/-- Settles O35: the first checksum is HIST0 when the second UPDATE judges, and the grid has not moved. -/
theorem stillLifeStagnatesAtTheSecondUpdate : Obligations.StillLifeStagnatesAtTheSecondUpdate := by
  intro s t u still ht hu
  rw [exec_update_updated, Host.Outcome.next.injEq] at ht hu
  subst ht hu
  have stagnant : s.updated.updated.stagnant = true := by simp [updated_stagnant_iff, still]
  refine ⟨by simp [still], by simp [still], stagnant, updated_energy_of_stagnant stagnant, fun h0 h1 hc => ?_⟩
  exact firstUpdate_not_stagnant h0 h1 (updated_result s ▸ hc)

/-- The history before the 4th UPDATE holds the checksums of the last three generations, so period 2 is seen (R117). -/
theorem fourthUpdate_stagnant {s : State} (period : nextGrid (nextGrid s.grid) = s.grid) :
    s.updated.updated.updated.updated.stagnant = true := by
  simp [updated_stagnant_iff, period]

/-- Settles O36: each of the first three judgements meets a zero of the reset history where period 2 wants a checksum. -/
theorem periodTwoStagnatesAtTheFourthUpdate : Obligations.PeriodTwoStagnatesAtTheFourthUpdate := by
  intro s period h0 h1 h2 differ hs hn
  have fresh : checksum s.grid ≠ s.hist0 := h0 ▸ hs
  have stagnant := fourthUpdate_stagnant period
  refine ⟨_, _, _, _, exec_update_updated s, exec_update_updated _, exec_update_updated _, exec_update_updated _,
    firstUpdate_not_stagnant h0 h1 hn, ?second, ?third, stagnant, updated_energy_of_stagnant stagnant, ?grid⟩
  case second => simp [updated_not_stagnant_iff, period, differ, fresh]
  case third => simp [updated_not_stagnant_iff, period, differ.symm, fresh]
  case grid => simp [period]

theorem updates_keep_period {s : State} (period : nextGrid (nextGrid s.grid) = s.grid) (n : Nat) :
    nextGrid (nextGrid (State.updated^[n] s).grid) = (State.updated^[n] s).grid := by
  induction n with
  | zero => exact period
  | succ n ih => rw [Function.iterate_succ_apply', updated_grid, ih]

/-- Settles O37: whatever came before, the last four UPDATEs are the first four of a run on a grid of period 2. -/
theorem stagnationPersists : Obligations.StagnationPersists := by
  intro s n period
  have stagnant := fourthUpdate_stagnant (updates_keep_period period n)
  refine ⟨_, execAll_updates (n + 4) s, ?_⟩
  rw [Nat.add_comm n 4, Function.iterate_add_apply]
  exact ⟨stagnant, updated_energy_of_stagnant stagnant⟩

end Sys2Proof.Machine
end

section
/-! TRIGGER: the band that its two draws are ORed into (R121, R122) and its frame (R123). -/

namespace Sys2Proof.Machine

/-- Cell by cell, the band is the grid ORed with one draw in rows 8..11 and the other in rows 12..15 (R122). -/
theorem alive_orBand_iff (g : Grid) (w0 w1 : Word) (r : RowIndex) (c : ColIndex) : alive (orBand g w0 w1) r c = true ↔
    alive g r c = true ∨
      (8 ≤ r.val ∧ r.val < 12 ∧ 12 ≤ c.val ∧ c.val < 20 ∧ w0.getLsbD (8 * (r.val - 8) + (c.val - 12)) = true) ∨
      (12 ≤ r.val ∧ r.val < 16 ∧ 12 ≤ c.val ∧ c.val < 20 ∧ w1.getLsbD (8 * (r.val - 12) + (c.val - 12)) = true) := by
  rw [alive, getElem_orBand, alive]
  by_cases row : 8 ≤ r.val ∧ r.val ≤ 15
  · rw [if_pos row, getLsbD_or_byte, Bool.or_eq_true, Bool.and_eq_true, decide_eq_true_iff]
    by_cases col : 12 ≤ c.val ∧ c.val < 20
    · rw [getLsbD_bandByte w0 w1 _ _ (by omega) (by omega), show r.val - 8 - 4 = r.val - 12 by omega]
      by_cases low : r.val < 12
      · rw [if_pos (by omega)]
        grind
      · rw [if_neg (by omega)]
        grind
    · grind
  · rw [if_neg row]
    grind

/-- Checking SEEDED writes the error fields and nothing else (R139). -/
theorem checkSeeded_eq (s : State) :
    s.checkSeeded = { s with err := s.checkSeeded.err, errcode := s.checkSeeded.errcode } := by
  unfold State.checkSeeded
  split
  · rfl
  · rw [raise_eq]

/-- Settles O39: the draws are those of the generator as it stood, whatever the check of SEEDED recorded. -/
theorem triggerSeedsTheBand : Obligations.TriggerSeedsTheBand := by
  intro s p q w0 w1
  refine ⟨_, exec_trigger rfl, ?_⟩
  rw [checkSeeded_eq]
  refine ⟨rfl, rfl, rfl, alive_orBand_iff s.grid w0 w1, fun h => ?seeded, fun h => ?unseeded, rfl⟩
  case seeded =>
    change s.checkSeeded.err = s.err ∧ s.checkSeeded.errcode = s.errcode
    rw [checkSeeded_of_seeded h]
    exact ⟨rfl, rfl⟩
  case unseeded =>
    change s.checkSeeded.err = true ∧ s.checkSeeded.errcode = _
    rw [checkSeeded_of_unseeded h]
    exact ⟨raise_err s _, raise_errcode s _⟩

end Sys2Proof.Machine
end

section
/-! The generator: PRNG_NEXT as the WELL512 step, runs of draws, and the commands that reach the slots and the index. -/

namespace Sys2Proof.Machine

/-! Slots. -/

theorem slot_setSlot_same (ps : PrngWords) (i : SlotIndex) (v : Word) : slot (setSlot ps i v) i = v :=
  Vector.getElem_set_self _

theorem slot_setSlot_of_ne (ps : PrngWords) {i j : SlotIndex} (h : i ≠ j) (v : Word) :
    slot (setSlot ps i v) j = slot ps j :=
  Vector.getElem_set_ne _ _ fun e => h (BitVec.eq_of_toNat_eq e)

/-- The slot `k` places above the index, modulo 16 (R15, R131). -/
theorem slot_above (ps : PrngWords) (i : SlotIndex) (k : Nat) :
    slot ps (i + BitVec.ofNat 4 k) = ps[(i.toNat + k) % 16]'(Nat.mod_lt _ (by decide)) := by
  have index : (i + BitVec.ofNat 4 k).toNat = (i.toNat + k) % 16 := by simp [BitVec.toNat_add]
  simp only [slot_eq, index]

/-- A slot number that the ROW field carries keeps its value in four bits (R72). -/
theorem toNat_setWidth_row {row : BitVec 5} {k : Fin 16} (h : row.toNat = k.val) : (row.setWidth 4).toNat = k.val := by
  rw [BitVec.toNat_setWidth, h]
  exact Nat.mod_eq_of_lt k.isLt

/-- Settles O43: ROW is the slot's number, and a write of one slot leaves the other fifteen. -/
theorem prngSlotsReadAndWrite : Obligations.PrngSlotsReadAndWrite := by
  intro s row k hk
  have inRange : row.toNat < 16 := hk ▸ k.isLt
  have number := toNat_setWidth_row hk
  refine ⟨?read, _, exec_prngWr inRange s, rfl, ?written, fun q hq => ?others⟩
  case read =>
    rw [exec_prngRd inRange]
    simp only [slot_eq, number]
    rfl
  case written => exact (getElem_setSlot ..).trans (if_pos number)
  case others => exact (getElem_setSlot ..).trans (if_neg fun e => hq (Fin.ext (e.symm.trans number)))

/-! The WELL512 step. -/

/-- The two words that a step writes, at the index and one place below it, from the words of the slots by their distance
above the index (R133). -/
def wellWords (above : Nat → Word) : Word × Word :=
  let b := above 0 ^^^ above 13 ^^^ (above 0 <<< 16) ^^^ (above 13 <<< 15)
  let c := above 9 ^^^ (above 9 >>> 11)
  let a := b ^^^ c
  let d := a ^^^ ((a <<< 5) &&& 0xDA442D24)
  (a, above 15 ^^^ b ^^^ d ^^^ (above 15 <<< 2) ^^^ (b <<< 18) ^^^ (c <<< 28))

/-- A step writes the slot of the index and the one below it, which it reads unchanged by the first write (R133, R134). -/
theorem wellStep_eq {ps : PrngWords} {i : SlotIndex} {above : Nat → Word}
    (h : ∀ k, slot ps (i + BitVec.ofNat 4 k) = above k) :
    wellStep ps i = (setSlot (setSlot ps i (wellWords above).1) (i + 15) (wellWords above).2, i + 15) := by
  have h0 : slot ps i = above 0 := by simpa using h 0
  have below : i ≠ i + 15 := by bv_omega
  simp only [wellStep, slot_setSlot_of_ne _ below, h0, show slot ps (i + 13) = _ from h 13,
    show slot ps (i + 9) = _ from h 9, show slot ps (i + 15) = _ from h 15, wellWords]

/-! PRNG_NEXT. -/

/-- The state that PRNG_NEXT leaves: one step of the generator, its word in RESULT, and what the check of SEEDED records
(R135). -/
def State.prngStepped (s : State) : State :=
  { s with
    ps := (wellStep s.ps s.idx).1
    idx := (wellStep s.ps s.idx).2
    result := slot (wellStep s.ps s.idx).1 (wellStep s.ps s.idx).2
    err := s.checkSeeded.err
    errcode := s.checkSeeded.errcode }

theorem exec_prngNext_prngStepped (s : State) : exec .prngNext s = .next s.prngStepped := by
  rw [exec_prngNext, checkSeeded_eq]
  rfl

/-- What the check of SEEDED records, as the host reads it in ERR and ERRCODE (R139, R170). -/
theorem checkSeeded_error (s : State) :
    (s.seeded = true → s.checkSeeded.err = s.err ∧ s.checkSeeded.errcode = s.errcode) ∧
    (s.seeded = false → s.checkSeeded.err = true ∧ s.checkSeeded.errcode = if s.err then s.errcode else 6) := by
  refine ⟨fun h => ?seeded, fun h => ?unseeded⟩
  case seeded => rw [checkSeeded_of_seeded h]; exact ⟨rfl, rfl⟩
  case unseeded => rw [checkSeeded_of_unseeded h]; exact ⟨raise_err s _, raise_errcode s _⟩

/-- Settles O40: the step is two writes, of which the second is at the new index and is what the command returns. -/
theorem prngNextIsTheWellStep : Obligations.PrngNextIsTheWellStep := by
  intro s above b c a d out
  have step : wellStep s.ps s.idx = (setSlot (setSlot s.ps s.idx a) (s.idx + 15) out, s.idx + 15) :=
    wellStep_eq (slot_above s.ps s.idx)
  have below : (s.idx + 15).toNat = (s.idx.toNat + 15) % 16 := slotIndex_add s.idx 15 (by decide)
  obtain ⟨seeded, unseeded⟩ := checkSeeded_error s
  refine ⟨_, exec_prngNext_prngStepped s, ?result, below, fun k => ?slots, seeded, unseeded, rfl⟩
  case result =>
    change slot (wellStep s.ps s.idx).1 (wellStep s.ps s.idx).2 = out
    rw [step, slot_setSlot_same]
  case slots =>
    change (wellStep s.ps s.idx).1[k] = _
    rw [step, getElem_setSlot, getElem_setSlot, below]
    by_cases index : k.val = s.idx.toNat
    · rw [if_pos index, if_neg (by omega), if_pos index.symm]
    · rw [if_neg index, if_neg (Ne.symm index)]
      exact if_congr eq_comm rfl rfl

/-! Runs of draws. -/

/-- A run of PRNG_NEXTs iterates the state that one of them leaves. -/
theorem execAll_prngNexts (n : Nat) : ∀ s : State,
    execAll (List.replicate n .prngNext) s = .next (State.prngStepped^[n] s) := by
  induction n with
  | zero => exact fun s => rfl
  | succ n ih =>
    intro s
    rw [List.replicate_succ, execAll, exec_prngNext_prngStepped]
    exact ih s.prngStepped

theorem prngNexts_idx (s : State) (n : Nat) : ((State.prngStepped^[n] s).idx.toNat + n) % 16 = s.idx.toNat := by
  induction n with
  | zero => exact Nat.mod_eq_of_lt s.idx.isLt
  | succ n ih =>
    have down : (State.prngStepped^[n] s).prngStepped.idx.toNat = ((State.prngStepped^[n] s).idx.toNat + 15) % 16 :=
      slotIndex_add _ 15 (by decide)
    rw [Function.iterate_succ_apply', down]
    omega

theorem prngNexts_zero {s : State} (zero : ∀ k : Fin 16, s.ps[k] = 0) (n : Nat) :
    ∀ k : Fin 16, (State.prngStepped^[n] s).ps[k] = 0 := by
  induction n with
  | zero => exact zero
  | succ n ih =>
    rw [Function.iterate_succ_apply']
    exact wellStep_zero _ _ ih

/-- Settles O42: the last draw of a run returns a slot of the state it leaves, and that is zero. -/
theorem drawsTurnTheIndexAndKeepZero : Obligations.DrawsTurnTheIndexAndKeepZero := by
  refine fun s n => ⟨_, execAll_prngNexts n s, prngNexts_idx s n, fun zero => ⟨prngNexts_zero zero n, fun drawn => ?_⟩⟩
  obtain ⟨m, rfl⟩ := Nat.exists_eq_succ_of_ne_zero drawn.ne'
  rw [Function.iterate_succ_apply']
  exact slot_of_zero _ _ (wellStep_zero _ _ (prngNexts_zero zero m))

/-- One drawing command takes two blocks with the same generator to the same generator, and PRNG_NEXT to the same word
(R140). -/
theorem exec_draws_alike {s u : State} (hps : s.ps = u.ps) (hidx : s.idx = u.idx) {i : Instr}
    (hi : i = .prngNext ∨ i = .trigger) :
    ∃ s' u', exec i s = .next s' ∧ exec i u = .next u' ∧ s'.ps = u'.ps ∧ s'.idx = u'.idx ∧
      (i = .prngNext → s'.result = u'.result) := by
  obtain rfl | rfl := hi
  · refine ⟨_, _, exec_prngNext_prngStepped s, exec_prngNext_prngStepped u, ?_⟩
    simp [State.prngStepped, hps, hidx]
  · refine ⟨_, _, exec_trigger rfl, exec_trigger rfl, ?_⟩
    simp [hps, hidx]

theorem execAll_singleton (i : Instr) (s : State) : execAll [i] s = exec i s := by
  obtain ⟨t, h, -⟩ := exec_total i s
  simp only [execAll, h]

/-- Settles O41: the generators agree before the last command of the sequence, by induction, so it draws the same words. -/
theorem drawsDependOnTheGeneratorAlone : Obligations.DrawsDependOnTheGeneratorAlone := by
  intro s u is hps hidx
  induction is using List.reverseRecOn with
  | nil => exact fun _ => ⟨s, u, rfl, rfl, hps, hidx, nofun⟩
  | append_singleton is i ih =>
    intro draws
    obtain ⟨s₁, u₁, hs₁, hu₁, hps₁, hidx₁, -⟩ := ih fun j hj => draws j (List.mem_append_left _ hj)
    obtain ⟨s', u', hs', hu', hps', hidx', result⟩ := exec_draws_alike hps₁ hidx₁ (draws i List.mem_concat_self)
    refine ⟨s', u', ?_, ?_, hps', hidx', fun last => result (by simpa using last)⟩
    · rw [execAll_append _ _ _ _ hs₁, execAll_singleton, hs']
    · rw [execAll_append _ _ _ _ hu₁, execAll_singleton, hu']

/-! PRNG_IDX. -/

/-- Outside seeding the accumulator holds nothing to clear (R43, R138). -/
theorem clearAccumulator_of_inactive {s : State} (inv : s.Inv) (inactive : s.seedState ≠ .active) :
    s.clearAccumulator = s := by
  obtain ⟨acc, bitcnt, pairPhase, pairFirst, last, lastValid⟩ := inv.inactiveZero inactive
  cases s
  simp_all [State.clearAccumulator]

/-- Settles O44: a block already seeded is DONE, so the end of seeding has nothing to change. -/
theorem prngIdxEndsSeeding : Obligations.PrngIdxEndsSeeding := by
  intro s
  refine ⟨_, rfl, BitVec.extractLsb'_toNat .., rfl, fun inv seeded => ?_⟩
  have done : s.seedState = .done := inv.seededDone.1 seeded
  rw [clearAccumulator_of_inactive inv (by rw [done]; decide), ← seeded, ← done]

end Sys2Proof.Machine
end

section
/-! Seeding: SEED_START, one ENT_SAMPLE with the bit it may emit, and runs of samples. -/

namespace Sys2Proof.Machine

/-- Settles O45: the accumulator is among what SEED_START clears. -/
theorem seedStartBeginsSeeding : Obligations.SeedStartBeginsSeeding :=
  fun _ idle => exec_seedStart_idle idle

/-! One emitted bit (R152, R153). -/

/-- The accumulator with one more bit, which enters at bit 0 (R152). -/
def State.shiftedAcc (s : State) (b : Bool) : Word := (s.acc <<< 1) ||| (if b then 1 else 0)

/-- `PS` with the word that the bit `b` completes in slot WORDCNT (R153). -/
def State.psWithWord (s : State) (b : Bool) : PrngWords := s.ps.setIfInBounds s.wordcnt.toNat (s.shiftedAcc b)

theorem emit_within_word {s : State} (h : s.bitcnt ≠ 31) (b : Bool) :
    s.emit b = { s with acc := s.shiftedAcc b, bitcnt := s.bitcnt + 1 } := by
  simp only [State.emit, bitcnt_last, if_neg h, ofBool_setWidth, State.shiftedAcc]

theorem emit_completes_word {s : State} (h : s.bitcnt = 31) (hw : s.wordcnt ≠ 15) (b : Bool) :
    s.emit b = { s with ps := s.psWithWord b, wordcnt := s.wordcnt + 1, acc := 0, bitcnt := 0 } := by
  simp only [State.emit, bitcnt_last, if_pos h, State.completeWord, wordcnt_last, if_neg hw, ofBool_setWidth,
    State.psWithWord, State.shiftedAcc]

theorem emit_finishes {s : State} (h : s.bitcnt = 31) (hw : s.wordcnt = 15) (b : Bool) :
    s.emit b = { s.finishSeeding with ps := s.psWithWord b, wordcnt := 16 } := by
  simp only [State.emit, bitcnt_last, if_pos h, State.completeWord, ofBool_setWidth,
    State.psWithWord, State.shiftedAcc, (wordcnt_last _).2 hw]
  rfl

theorem exec_entSample_silent {s : State} (active : s.seedState = .active) (h : s.emits? s.operand0 = none) :
    exec .entSample s = .next s.sampled := by
  rw [exec_entSample_active s active, h]

theorem exec_entSample_emits {s : State} {b : Bool} (active : s.seedState = .active)
    (h : s.emits? s.operand0 = some b) : exec .entSample s = .next (s.sampled.emit b) := by
  rw [exec_entSample_active s active, h]

/-- Settles O46: the sample is taken, then the bit it emits, if any, enters the accumulator. -/
theorem sampleYieldsAtMostOneBit : Obligations.SampleYieldsAtMostOneBit := by
  intro s active below
  cases emitted : s.emits? s.operand0 with
  | none => exact exec_entSample_silent active emitted
  | some b =>
    have within : s.bitcnt ≠ 31 := fun last => by
      have := below (by simp [emitted])
      simp [last] at this
    rw [exec_entSample_emits active emitted, emit_within_word (s := s.sampled) within]
    rfl

theorem psWithWord_same {s : State} {k : Fin 16} (hk : s.wordcnt.toNat = k.val) (b : Bool) :
    (s.psWithWord b)[k] = s.shiftedAcc b := by
  simp [State.psWithWord, hk]

theorem psWithWord_of_ne {s : State} {k q : Fin 16} (hk : s.wordcnt.toNat = k.val) (hq : q ≠ k) (b : Bool) :
    (s.psWithWord b)[q] = s.ps[q] := by
  simp [State.psWithWord, Vector.getElem_setIfInBounds, hk, Fin.ext_iff] at hq ⊢
  omega

/-! What one sample emits (R149 to R151). -/

/-- A sample's raw bit equals the one held as the first of a debiased pair (R150). -/
def State.Ties (s : State) (v : Word) : Prop :=
  s.mode = false ∧ s.pairPhase = true ∧ parityBit v s.last = s.pairFirst

/-- Why a sample emits what it emits. -/
inductive Emission (s : State) (v : Word) : Option Bool → Prop where
  | primes (unprimed : s.lastValid = false) : Emission s v none
  | raw (primed : s.lastValid = true) (raw : s.mode = true) : Emission s v (some (parityBit v s.last))
  | holds (primed : s.lastValid = true) (debiased : s.mode = false) (first : s.pairPhase = false) : Emission s v none
  | ties (primed : s.lastValid = true) (tie : s.Ties v) : Emission s v none
  | differs (primed : s.lastValid = true) (debiased : s.mode = false) (second : s.pairPhase = true)
    (differ : parityBit v s.last ≠ s.pairFirst) : Emission s v (some (parityBit v s.last))

theorem emission (s : State) (v : Word) : Emission s v (s.emits? v) := by
  unfold State.emits?
  by_cases unprimed : s.lastValid = false
  · rw [if_pos unprimed]; exact .primes unprimed
  have primed := Bool.of_not_eq_false unprimed
  rw [if_neg unprimed]
  by_cases raw : s.mode = true
  · rw [if_pos raw]; exact .raw primed raw
  have debiased := Bool.of_not_eq_true raw
  rw [if_neg raw]
  by_cases first : s.pairPhase = false
  · rw [if_pos first]; exact .holds primed debiased first
  have second := Bool.of_not_eq_false first
  rw [if_neg first]
  by_cases tie : parityBit v s.last = s.pairFirst
  · rw [if_pos tie]; exact .ties primed ⟨debiased, second, tie⟩
  · rw [if_neg tie]; exact .differs primed debiased second tie

/-- A bit comes of a primed LAST, and in debiased mode of the second of a pair. -/
theorem primed_of_emits {s : State} {v : Word} {b : Bool} (emitted : s.emits? v = some b) :
    s.lastValid = true ∧ (s.mode = false → s.pairPhase = true) := by
  have reason := emission s v
  rw [emitted] at reason
  cases reason with
  | raw primed raw => exact ⟨primed, fun debiased => absurd (debiased.symm.trans raw) (by decide)⟩
  | differs primed _ second _ => exact ⟨primed, fun _ => second⟩

/-- The sample taken, when it emits a bit: in debiased mode it leaves no pair open. -/
theorem sampled_of_emits {s : State} {b : Bool} (emitted : s.emits? s.operand0 = some b) :
    s.sampled = { s with
      entCount := s.entCount + 1, last := s.operand0, lastValid := true
      pairPhase := if s.mode then s.pairPhase else false
      pairFirst := if s.mode then s.pairFirst else false } := by
  obtain ⟨primed, second⟩ := primed_of_emits emitted
  cases mode : s.mode with
  | true => simp [State.sampled, mode]
  | false => simp [State.sampled, mode, primed, second mode]

/-- Settles O47: the sample is taken and the bit it emits completes the word, which is the 16th or is not. -/
theorem thirtySecondBitCompletesTheWord : Obligations.ThirtySecondBitCompletesTheWord := by
  intro s b k active emitted last slot
  have executed := exec_entSample_emits active emitted
  have taken := sampled_of_emits emitted
  have counted : (s.sampled.emit b).wordcnt.toNat = k.val + 1 := by
    rw [emit_wordcnt, State.sampled_bitcnt, if_pos last, State.sampled_wordcnt]
    have := k.isLt
    bv_omega
  by_cases sixteenth : s.wordcnt = 15
  · have ended := emit_finishes (s := s.sampled) last sixteenth b
    refine ⟨_, executed, ?_, fun q hq => ?_, counted, fun hk => ?_, fun _ => ?_⟩
    · rw [ended]; exact psWithWord_same slot b
    · rw [ended]; exact psWithWord_of_ne slot hq b
    · rw [sixteenth] at slot; exact absurd slot hk.ne'
    · rw [ended, taken]; rfl
  · have ended := emit_completes_word (s := s.sampled) last sixteenth b
    refine ⟨_, executed, ?_, fun q hq => ?_, counted, fun _ => ?_, fun hk => ?_⟩
    · rw [ended]; exact psWithWord_same slot b
    · rw [ended]; exact psWithWord_of_ne slot hq b
    · rw [ended, taken]
    · exact absurd (BitVec.eq_of_toNat_eq (slot.trans hk : s.wordcnt.toNat = (15 : BitVec 5).toNat)) sixteenth

/-! Runs of samples. Each comes with no command in flight (log 10). -/

/-- The state with the sample in ARG0 and no command in flight, in which its ENT_SAMPLE is issued. -/
def State.offered (s : State) (v : Word) : State := { s with arg0 := v, inFlight := none }

/-- The state after an ENT_SAMPLE of `v` in ACTIVE. -/
def State.afterSample (s : State) (v : Word) : State :=
  match s.emits? v with
  | none => (s.offered v).sampled
  | some b => (s.offered v).sampled.emit b

theorem afterSample_silent {s : State} {v : Word} (h : s.emits? v = none) :
    s.afterSample v = (s.offered v).sampled := by
  rw [State.afterSample, h]

theorem afterSample_emits {s : State} {v : Word} {b : Bool} (h : s.emits? v = some b) :
    s.afterSample v = (s.offered v).sampled.emit b := by
  rw [State.afterSample, h]

theorem feed_cons_of_next {s t : State} {v : Word} (h : exec .entSample (s.offered v) = .next t) (rest : List Word) :
    feed (v :: rest) s = feed rest t := by
  rw [State.offered] at h
  rw [feed, h]

theorem feed_cons_active {s : State} (active : s.seedState = .active) (v : Word) (rest : List Word) :
    feed (v :: rest) s = feed rest (s.afterSample v) :=
  feed_cons_of_next (exec_entSample_active (s.offered v) active) rest

@[simp] theorem afterSample_mode (s : State) (v : Word) : (s.afterSample v).mode = s.mode := by
  unfold State.afterSample
  split <;> simp [State.sampled, State.offered]

@[simp] theorem afterSample_entCount (s : State) (v : Word) : (s.afterSample v).entCount = s.entCount + 1 := by
  unfold State.afterSample
  split <;> simp [State.sampled, State.offered]

theorem count_succ (c : Word) (n : Nat) : c + BitVec.ofNat 32 (n + 1) = c + BitVec.ofNat 32 n + 1 := by
  rw [BitVec.ofNat_add, ← BitVec.add_assoc]
  rfl

/-! Progress. -/

/-- The samples a seeding takes when no pair is a tie (R155), by MODE. -/
def seedingLength (mode : Bool) : Nat := if mode then 513 else 1025

theorem seedingLength_raw : seedingLength true = 513 := rfl
theorem seedingLength_debiased : seedingLength false = 1025 := rfl

/-- The bits gathered so far. -/
def State.bits (s : State) : Nat := 32 * s.wordcnt.toNat + s.bitcnt.toNat

/-- How many of the samples of `seedingLength` are behind `s`: the first one primes LAST, a bit takes one in raw mode and
two in debiased mode, of which the first may be held (R149 to R152). -/
def State.progress (s : State) : Nat :=
  s.lastValid.toNat + if s.mode then s.bits else 2 * s.bits + s.pairPhase.toNat

theorem progress_of_raw {s : State} (h : s.mode = true) : s.progress = s.lastValid.toNat + s.bits := by
  simp [State.progress, h]

theorem progress_of_debiased {s : State} (h : s.mode = false) :
    s.progress = s.lastValid.toNat + (2 * s.bits + s.pairPhase.toNat) := by
  simp [State.progress, h]

/-- Seeding is under way on a block that is not seeded. -/
structure State.Gathering (s : State) : Prop where
  active : s.seedState = .active
  unseeded : s.seeded = false
  wordsLeft : s.wordcnt.toNat < 16

/-- Seeding has completed with its 16th word (R153). -/
structure State.Completed (s : State) : Prop where
  done : s.seedState = .done
  seeded : s.seeded = true
  index : s.idx = 0
  words : s.wordcnt = 16

theorem bits_le {s : State} (g : s.Gathering) : s.bits ≤ 511 := by
  have := g.wordsLeft
  have := s.bitcnt.isLt
  unfold State.bits
  omega

/-- An emitted bit before the 512th. -/
theorem State.Gathering.emit {s : State} (g : s.Gathering) (h : s.bits < 511) (b : Bool) :
    (s.emit b).Gathering ∧ (s.emit b).bits = s.bits + 1 ∧ (s.emit b).lastValid = s.lastValid ∧
      (s.emit b).pairPhase = s.pairPhase := by
  obtain ⟨before, -⟩ := emit_progress s b g.wordsLeft
  obtain ⟨seedState, seeded, lastValid, wordsLeft, pairPhase, count⟩ := before (Nat.succ_lt_succ h)
  exact ⟨⟨seedState.trans g.active, seeded.trans g.unseeded, wordsLeft⟩, count, lastValid, pairPhase⟩

theorem last_emit {s : State} (h : s.bits < 511) (b : Bool) : (s.emit b).last = s.last := by
  by_cases full : s.bitcnt = 31
  · have notLast : s.wordcnt ≠ 15 := fun sixteenth => by
      rw [State.bits, full, sixteenth] at h
      exact absurd h (by decide)
    rw [emit_completes_word full notLast]
  · rw [emit_within_word full]

/-- The 512th emitted bit. -/
theorem completed_emit {s : State} (g : s.Gathering) (h : s.bits = 511) (b : Bool) : (s.emit b).Completed := by
  have := s.bitcnt.isLt
  have := g.wordsLeft
  have counts : s.bitcnt = 31 ∧ s.wordcnt = 15 := by
    unfold State.bits at h
    constructor <;> bv_omega
  rw [emit_finishes counts.1 counts.2]
  exact ⟨rfl, rfl, rfl, rfl⟩

section
variable {s : State} {v : Word}

theorem gathering_sampled (g : s.Gathering) : (s.offered v).sampled.Gathering := ⟨g.active, g.unseeded, g.wordsLeft⟩

@[simp] theorem sampled_bits : (s.offered v).sampled.bits = s.bits := rfl

/-- What is behind a sample that emits a bit. -/
theorem progress_of_emits {b : Bool} (emitted : s.emits? v = some b) :
    s.progress + 1 = if s.mode then s.bits + 2 else 2 * s.bits + 3 := by
  obtain ⟨primed, second⟩ := primed_of_emits emitted
  cases mode : s.mode with
  | true =>
    rw [progress_of_raw mode, primed, Bool.toNat_true, if_pos rfl]
    omega
  | false =>
    rw [progress_of_debiased mode, primed, second mode, Bool.toNat_true, if_neg (by decide)]
    omega

theorem bits_of_emits {b : Bool} (emitted : s.emits? v = some b) (h : s.progress + 1 < seedingLength s.mode) :
    s.bits < 511 := by
  rw [progress_of_emits emitted, seedingLength] at h
  split at h <;> omega

theorem bits_of_emits_last {b : Bool} (emitted : s.emits? v = some b) (h : s.progress + 1 = seedingLength s.mode) :
    s.bits = 511 := by
  rw [progress_of_emits emitted, seedingLength] at h
  split at h <;> omega

theorem progress_sampled_unprimed (unprimed : s.lastValid = false) :
    (s.offered v).sampled.progress = s.progress + 1 := by
  simp [State.progress, State.bits, State.sampled, State.offered, unprimed, Nat.add_comm]

theorem progress_sampled_debiased (primed : s.lastValid = true) (debiased : s.mode = false) :
    (s.offered v).sampled.progress = 1 + (2 * s.bits + (!s.pairPhase).toNat) := by
  simp [State.progress, State.bits, State.sampled, State.offered, primed, debiased]

theorem pairPhase_sampled_debiased (primed : s.lastValid = true) (debiased : s.mode = false) :
    (s.offered v).sampled.pairPhase = !s.pairPhase := by
  simp [State.sampled, State.offered, primed, debiased]

theorem pairFirst_sampled_debiased (primed : s.lastValid = true) (debiased : s.mode = false)
    (first : s.pairPhase = false) : (s.offered v).sampled.pairFirst = parityBit v s.last := by
  simp [State.sampled, State.offered, State.operand0, primed, debiased, first]

/-- A sample but the last one that emits a bit: it closes the pair. -/
theorem afterSample_of_emits (g : s.Gathering) {b : Bool} (emitted : s.emits? v = some b)
    (h : s.progress + 1 < seedingLength s.mode) :
    (s.afterSample v).Gathering ∧ (s.afterSample v).bits = s.bits + 1 ∧ (s.afterSample v).lastValid = true ∧
      (s.afterSample v).last = v ∧ (s.mode = false → (s.afterSample v).pairPhase = false) := by
  have early : (s.offered v).sampled.bits < 511 := sampled_bits.trans_lt (bits_of_emits emitted h)
  obtain ⟨gathering, count, lastValid, pairPhase⟩ := (gathering_sampled g).emit early b
  rw [afterSample_emits emitted]
  refine ⟨gathering, count, lastValid, last_emit early b, fun debiased => ?_⟩
  obtain ⟨primed, second⟩ := primed_of_emits emitted
  rw [pairPhase, pairPhase_sampled_debiased primed debiased, second debiased]
  rfl

/-- A sample but the last one makes at most one sample's progress, and that much unless it ties. -/
theorem progress_afterSample (g : s.Gathering) (h : s.progress + 1 < seedingLength s.mode) :
    (s.afterSample v).Gathering ∧ (s.afterSample v).progress ≤ s.progress + 1 ∧
      (¬ s.Ties v → (s.afterSample v).progress = s.progress + 1) := by
  have taken := gathering_sampled (v := v) g
  have reason := emission s v
  generalize emitted : s.emits? v = bit at reason
  cases reason with
  | primes unprimed =>
    rw [afterSample_silent emitted, progress_sampled_unprimed unprimed]
    exact ⟨taken, le_rfl, fun _ => rfl⟩
  | holds primed debiased first =>
    rw [afterSample_silent emitted, progress_sampled_debiased primed debiased, progress_of_debiased debiased, primed,
      first]
    exact ⟨taken, le_rfl, fun _ => rfl⟩
  | ties primed tie =>
    have ⟨debiased, second, _⟩ := tie
    rw [afterSample_silent emitted, progress_sampled_debiased primed debiased, progress_of_debiased debiased, primed,
      second, Bool.toNat_true, Bool.not_true, Bool.toNat_false]
    exact ⟨taken, by omega, absurd tie⟩
  | raw | differs =>
    obtain ⟨gathering, count, lastValid, -, closed⟩ := afterSample_of_emits g emitted h
    have counted : (s.afterSample v).progress = s.progress + 1 := by
      rw [progress_of_emits emitted, State.progress, afterSample_mode, lastValid, count, Bool.toNat_true]
      cases mode : s.mode with
      | true =>
        rw [if_pos rfl, if_pos rfl]
        omega
      | false =>
        rw [if_neg (by decide), if_neg (by decide), closed mode, Bool.toNat_false]
        omega
    exact ⟨gathering, counted.le, fun _ => counted⟩

/-- The last sample completes seeding unless it ties. -/
theorem completed_afterSample (g : s.Gathering) (h : s.progress + 1 = seedingLength s.mode) (noTie : ¬ s.Ties v) :
    (s.afterSample v).Completed := by
  have bits := bits_le g
  have taken := gathering_sampled (v := v) g
  have reason := emission s v
  generalize emitted : s.emits? v = bit at reason
  cases reason with
  | primes unprimed =>
    have pair := s.pairPhase.toNat_le
    cases mode : s.mode with
    | true =>
      rw [progress_of_raw mode, unprimed, Bool.toNat_false, mode, seedingLength_raw] at h
      omega
    | false =>
      rw [progress_of_debiased mode, unprimed, Bool.toNat_false, mode, seedingLength_debiased] at h
      omega
  | holds primed debiased first =>
    rw [progress_of_debiased debiased, primed, first, Bool.toNat_true, Bool.toNat_false, debiased,
      seedingLength_debiased] at h
    omega
  | ties primed tie => exact absurd tie noTie
  | raw | differs =>
    rw [afterSample_emits emitted]
    exact completed_emit taken (sampled_bits.trans (bits_of_emits_last emitted h)) _

/-- A sample but the last one stays in LAST. -/
theorem last_afterSample (g : s.Gathering) (h : s.progress + 1 < seedingLength s.mode) :
    (s.afterSample v).lastValid = true ∧ (s.afterSample v).last = v := by
  cases emitted : s.emits? v with
  | none => rw [afterSample_silent emitted]; exact ⟨rfl, rfl⟩
  | some b =>
    obtain ⟨-, -, lastValid, last, -⟩ := afterSample_of_emits g emitted h
    exact ⟨lastValid, last⟩

/-- A pair open after a sample but the last one holds that sample's raw bit (R150). -/
theorem pairFirst_afterSample (g : s.Gathering) (h : s.progress + 1 < seedingLength s.mode) (primed : s.lastValid = true)
    (debiased : s.mode = false) (opened : (s.afterSample v).pairPhase = true) :
    (s.afterSample v).pairFirst = parityBit v s.last := by
  cases emitted : s.emits? v with
  | none =>
    rw [afterSample_silent emitted, pairPhase_sampled_debiased primed debiased, Bool.not_eq_true'] at opened
    rw [afterSample_silent emitted, pairFirst_sampled_debiased primed debiased opened]
  | some b =>
    obtain ⟨-, -, -, -, closed⟩ := afterSample_of_emits g emitted h
    exact absurd opened (by rw [closed debiased]; decide)

end

/-! Runs from SEED_START (R155). -/

/-- Fewer samples than `seedingLength` do not complete seeding. -/
theorem feed_gathers (samples : List Word) : ∀ {s : State}, s.Gathering →
    s.progress + samples.length < seedingLength s.mode → ∃ u, feed samples s = .next u ∧ u.Gathering := by
  induction samples with
  | nil => exact fun {s} g _ => ⟨s, rfl, g⟩
  | cons v rest ih =>
    intro s g h
    rw [List.length_cons] at h
    obtain ⟨gathering, bound, -⟩ := progress_afterSample (v := v) g (by omega)
    rw [feed_cons_active g.active]
    exact ih gathering (by rw [afterSample_mode]; omega)

/-- The state that SEED_START leaves from IDLE (R146). -/
def State.seedingStarted (s : State) : State :=
  { s.clearAccumulator with mode := s.raw, seedState := .active, wordcnt := 0, entCount := 0 }

theorem gathering_seedingStarted {s : State} (h : s.seeded = false) : s.seedingStarted.Gathering :=
  ⟨rfl, h, (by decide : (0 : BitVec 5).toNat < 16)⟩

theorem progress_seedingStarted (s : State) : s.seedingStarted.progress = 0 := by
  simp [State.progress, State.seedingStarted, State.bits]

/-- Settles O49: a sample makes at most one sample's progress, and 1025 are needed. -/
theorem debiasedSeedingNeeds1025Samples : Obligations.DebiasedSeedingNeeds1025Samples := by
  intro s samples idle unseeded debiased short
  obtain ⟨u, fed, active, still, -⟩ := feed_gathers samples (gathering_seedingStarted unseeded) (by
    rw [progress_seedingStarted, Nat.zero_add, show s.seedingStarted.mode = false from debiased]
    exact short)
  exact ⟨_, u, exec_seedStart_idle idle, fed, still, active⟩

/-- The first `n` samples of a run from `t` lead to `u`, and each made its sample's progress. -/
structure Reached (t : State) (samples : List Word) (n : Nat) (u : State) : Prop where
  fed : feed (samples.take n) t = .next u
  gathering : u.Gathering
  mode : u.mode = t.mode
  progress : u.progress = n
  counted : u.entCount = t.entCount + BitVec.ofNat 32 n
  primed : u.lastValid = decide (0 < n)
  last : ∀ (m : Nat) (_ : m < samples.length), n = m + 1 → u.last = samples[m]
  held : ∀ (m : Nat) (_ : m + 1 < samples.length), n = m + 2 → u.mode = false → u.pairPhase = true →
    u.pairFirst = parityBit samples[m + 1] samples[m]

theorem feed_take_succ {samples : List Word} {n : Nat} (hn : n < samples.length) {t u : State}
    (fed : feed (samples.take n) t = .next u) (active : u.seedState = .active) :
    feed (samples.take (n + 1)) t = .next (u.afterSample samples[n]) := by
  rw [List.take_succ_eq_append_getElem hn, feed_append _ _ _ _ fed, feed_cons_active active]
  rfl

theorem reached_succ {t u : State} {samples : List Word} {n : Nat} (hn : n < samples.length)
    (short : n + 1 < seedingLength t.mode) (r : Reached t samples n u) (noTie : ¬ u.Ties samples[n]) :
    Reached t samples (n + 1) (u.afterSample samples[n]) := by
  obtain ⟨fed, gathering, mode, progress, counted, primed, last, held⟩ := r
  have before : u.progress + 1 < seedingLength u.mode := by rwa [progress, mode]
  obtain ⟨gathering', -, progress'⟩ := progress_afterSample (v := samples[n]) gathering before
  obtain ⟨primed', last'⟩ := last_afterSample (v := samples[n]) gathering before
  exact {
    fed := feed_take_succ hn fed gathering.active
    gathering := gathering'
    mode := (afterSample_mode ..).trans mode
    progress := by rw [progress' noTie, progress]
    counted := by rw [afterSample_entCount, counted, count_succ]
    primed := primed'.trans (decide_eq_true n.succ_pos).symm
    last := by rintro m - ⟨⟩; exact last'
    held := by
      intro m hm e debiased second
      obtain rfl : n = m + 1 := Nat.succ.inj e
      have wasPrimed : u.lastValid = true := primed.trans (decide_eq_true m.succ_pos)
      have wasDebiased : u.mode = false := (afterSample_mode ..).symm.trans debiased
      rw [pairFirst_afterSample gathering before wasPrimed wasDebiased second, last m _ rfl] }

theorem reached_of_noTies {t : State} {samples : List Word} (g : t.Gathering) (fresh : t.progress = 0)
    (noTies : ∀ (n : Nat) (hn : n < samples.length) (u : State), Reached t samples n u → ¬ u.Ties samples[n]) :
    ∀ n ≤ samples.length, n < seedingLength t.mode → ∃ u, Reached t samples n u := by
  intro n
  induction n with
  | zero =>
    intro _ _
    have unprimed : t.lastValid = false := Bool.toNat_eq_zero.1 (Nat.eq_zero_of_add_eq_zero_right fresh)
    exact ⟨t, rfl, g, rfl, fresh, (BitVec.add_zero _).symm, unprimed, nofun, nofun⟩
  | succ n ih =>
    intro hn short
    obtain ⟨u, r⟩ := ih (by omega) (by omega)
    exact ⟨_, reached_succ hn short r (noTies n hn u r)⟩

/-- As many samples as `seedingLength` complete seeding when none ties. -/
theorem feed_completes {t : State} {samples : List Word} (g : t.Gathering) (fresh : t.progress = 0)
    (noTies : ∀ (n : Nat) (hn : n < samples.length) (u : State), Reached t samples n u → ¬ u.Ties samples[n])
    (long : samples.length = seedingLength t.mode) :
    ∃ u, feed samples t = .next u ∧ u.Completed ∧ u.entCount = t.entCount + BitVec.ofNat 32 samples.length := by
  obtain ⟨n, hn⟩ : ∃ n, samples.length = n + 1 := by
    rw [long, seedingLength]
    split
    · exact ⟨512, rfl⟩
    · exact ⟨1024, rfl⟩
  obtain ⟨u, r⟩ := reached_of_noTies g fresh noTies n (by omega) (by omega)
  have noTie := noTies n (by omega) u r
  refine ⟨_, ?_, completed_afterSample r.gathering (by rw [r.progress, r.mode, ← long, hn]) noTie, ?_⟩
  · rw [← feed_take_succ _ r.fed r.gathering.active, ← hn, List.take_length]
  · rw [afterSample_entCount, r.counted, hn, count_succ]

/-- Settles O48: raw mode has no ties, so it completes at 513 samples, and earlier none completes. -/
theorem rawSeedingTakes513Samples : Obligations.RawSeedingTakes513Samples := by
  intro s samples idle unseeded raw atMost
  have mode : s.seedingStarted.mode = true := raw
  have g := gathering_seedingStarted unseeded
  have fresh := progress_seedingStarted s
  by_cases long : samples.length = 513
  · obtain ⟨u, fed, done, -⟩ := feed_completes (samples := samples) g fresh
      (fun n _ u r tie => absurd (tie.1.symm.trans (r.mode.trans mode)) (by decide)) (by rw [mode]; exact long)
    exact ⟨_, u, exec_seedStart_idle idle, fed, by simp [done.seeded, long], by simp [done.done, long]⟩
  · obtain ⟨u, fed, g'⟩ := feed_gathers samples g (by rw [fresh, mode, seedingLength_raw]; omega)
    exact ⟨_, u, exec_seedStart_idle idle, fed, by simp [g'.unseeded, long], by simp [g'.active, long]⟩

/-- Where a pair completes, its second raw bit is that of an even sample, 2k+2, with the first at 2k+1 (R149, R150). -/
theorem noTie_of_reached {t u : State} {samples : List Word} {n : Nat} (hn : n < samples.length)
    (r : Reached t samples n u)
    (differ : ∀ (k : Nat) (_ : 2 * k + 2 < samples.length), parityBit samples[2 * k + 1] samples[2 * k] ≠
      parityBit samples[2 * k + 2] samples[2 * k + 1]) : ¬ u.Ties samples[n] := by
  rintro ⟨debiased, second, tie⟩
  have progress := r.progress
  rw [progress_of_debiased debiased, second, Bool.toNat_true] at progress
  have primed : u.lastValid = true := r.primed.trans (decide_eq_true (by omega))
  rw [primed, Bool.toNat_true] at progress
  obtain ⟨k, rfl⟩ : ∃ k, n = 2 * k + 2 := ⟨u.bits, by omega⟩
  rw [r.held (2 * k) (by omega) rfl debiased second, r.last (2 * k + 1) (by omega) rfl] at tie
  exact differ k hn tie.symm

/-- Settles O52: no pair is a tie, so the 1025th sample completes seeding. -/
theorem tieFreeSamplesSeedAtThe1025th : Obligations.TieFreeSamplesSeedAtThe1025th := by
  intro s samples idle unseeded debiased long differ
  obtain ⟨u, fed, ⟨done, seeded, index, words⟩, counted⟩ := feed_completes (samples := samples)
    (gathering_seedingStarted unseeded) (progress_seedingStarted s)
    (fun n hn u r => noTie_of_reached hn r fun k hk => differ k (by omega))
    (by rw [show s.seedingStarted.mode = false from debiased]; exact long)
  refine ⟨_, u, exec_seedStart_idle idle, fed, seeded, done, index, words, ?_⟩
  rw [counted, long]
  rfl

/-! The seeding stall (R156). -/

/-- Seeding in debiased mode, with no raw bit but `b` held. -/
structure State.Stalled (s : State) (b : Bool) : Prop where
  active : s.seedState = .active
  debiased : s.mode = false
  primed : s.lastValid = true
  held : s.pairPhase = true → s.pairFirst = b

theorem State.Stalled.silent {s : State} {b : Bool} (st : s.Stalled b) {v : Word} (equal : parityBit v s.last = b) :
    s.emits? v = none ∧ (s.offered v).sampled.Stalled b := by
  obtain ⟨active, debiased, primed, held⟩ := st
  constructor
  · by_cases second : s.pairPhase = true
    · simp [State.emits?, debiased, equal, held second]
    · simp [State.emits?, debiased, second]
  · refine ⟨active, debiased, rfl, fun second => ?_⟩
    rw [pairPhase_sampled_debiased primed debiased, Bool.not_eq_true'] at second
    rw [pairFirst_sampled_debiased primed debiased second, equal]

theorem feed_stalls (b : Bool) (samples : List Word) : ∀ {s : State}, s.Stalled b →
    (s.last :: samples).IsChain (fun l v => parityBit v l = b) →
    ∃ u, feed samples s = .next u ∧ u.seedState = .active ∧ u.bitcnt = s.bitcnt ∧ u.wordcnt = s.wordcnt ∧
      u.ps = s.ps ∧ u.entCount = s.entCount + BitVec.ofNat 32 samples.length := by
  induction samples with
  | nil => exact fun {s} st _ => ⟨s, rfl, st.active, rfl, rfl, rfl, by simp⟩
  | cons v rest ih =>
    intro s st chain
    rw [List.isChain_cons_cons] at chain
    obtain ⟨silent, st'⟩ := st.silent chain.1
    obtain ⟨u, fed, active, bitcnt, wordcnt, ps, counted⟩ := ih st' chain.2
    refine ⟨u, ?_, active, bitcnt, wordcnt, ps, counted.trans ?_⟩
    · rw [feed_cons_active st.active, afterSample_silent silent, fed]
    · exact (add_right_comm ..).trans (count_succ ..).symm

/-- Settles O51: the first sample primes LAST, and after it every raw bit is held or ties. -/
theorem equalRawBitsNeverSeed : Obligations.EqualRawBitsNeverSeed := by
  intro s samples b idle debiased equal
  refine ⟨s.seedingStarted, ?_⟩
  have chain : samples.IsChain (fun l v => parityBit v l = b) := List.isChain_iff_getElem.2 equal
  cases samples with
  | nil => exact ⟨_, exec_seedStart_idle idle, rfl, rfl, rfl, rfl, rfl, rfl⟩
  | cons v rest =>
    have silent : s.seedingStarted.emits? v = none := rfl
    have stalled : (s.seedingStarted.offered v).sampled.Stalled b := ⟨rfl, debiased, rfl, nofun⟩
    obtain ⟨u, fed, active, bitcnt, wordcnt, ps, counted⟩ := feed_stalls b rest stalled chain
    refine ⟨u, exec_seedStart_idle idle, ?_, active, bitcnt, wordcnt, ps, counted.trans ?_⟩
    · rw [feed_cons_active rfl, afterSample_silent silent, fed]
    · exact (add_right_comm 0 1 _).trans ((count_succ 0 _).symm.trans (BitVec.zero_add _))

/-! Only bit 0 of a sample is used (R148). -/

/-- Two states that differ at most in the samples they hold, and there not in bit 0 of LAST. -/
inductive SampleAlike (s : State) : State → Prop where
  | of (arg0 last : Word) (h : s.last.getLsbD 0 = last.getLsbD 0) : SampleAlike s { s with arg0 := arg0, last := last }

section
variable {s u : State} (h : SampleAlike s u)
include h

theorem emit_alike (b : Bool) : SampleAlike (s.emit b) (u.emit b) := by
  obtain ⟨arg0, last, h⟩ := h
  by_cases full : s.bitcnt = 31
  · by_cases sixteenth : s.wordcnt = 15
    · rw [emit_finishes full sixteenth, emit_finishes (s := { s with arg0 := arg0, last := last }) full sixteenth]
      exact .of arg0 0 rfl
    · rw [emit_completes_word full sixteenth,
        emit_completes_word (s := { s with arg0 := arg0, last := last }) full sixteenth]
      exact .of arg0 last h
  · rw [emit_within_word full, emit_within_word (s := { s with arg0 := arg0, last := last }) full]
    exact .of arg0 last h

theorem raise_alike (e : CmdError) : SampleAlike (s.raise e) (u.raise e) := by
  obtain ⟨arg0, last, h⟩ := h
  rw [raise_eq, raise_eq]
  exact .of arg0 last h

variable {v w : Word} (bit : v.getLsbD 0 = w.getLsbD 0)

theorem offered_alike (v w : Word) : SampleAlike (s.offered v) (u.offered w) := by
  obtain ⟨_, last, h⟩ := h
  exact .of w last h

include bit

theorem parityBit_alike : parityBit w u.last = parityBit v s.last := by
  obtain ⟨arg0, last, h⟩ := h
  rw [parityBit, parityBit, bit, h]

theorem emits_alike : u.emits? w = s.emits? v := by
  rw [State.emits?, parityBit_alike h bit]
  cases h
  rfl

theorem sampled_alike : SampleAlike (s.offered v).sampled (u.offered w).sampled := by
  have parity : parityBit (u.offered w).operand0 (u.offered w).last = parityBit v s.last := parityBit_alike h bit
  have same : (u.offered w).sampled = { (s.offered v).sampled with arg0 := w, last := w } := by
    rw [State.sampled, parity]
    cases h
    rfl
  rw [same]
  exact .of w w bit

/-- One sample takes alike states to alike states, in ACTIVE and outside it, where it is discarded. -/
theorem exec_entSample_alike : ∃ s' u', exec .entSample (s.offered v) = .next s' ∧
    exec .entSample (u.offered w) = .next u' ∧ SampleAlike s' u' := by
  have seedState : u.seedState = s.seedState := by cases h; rfl
  have emits := emits_alike h bit
  by_cases active : s.seedState = .active
  · have active' := seedState.trans active
    cases emitted : s.emits? v with
    | none =>
      exact ⟨_, _, exec_entSample_silent active emitted, exec_entSample_silent active' (emits.trans emitted),
        sampled_alike h bit⟩
    | some b =>
      exact ⟨_, _, exec_entSample_emits active emitted, exec_entSample_emits active' (emits.trans emitted),
        emit_alike (sampled_alike h bit) b⟩
  · have inactive' : u.seedState ≠ .active := seedState ▸ active
    exact ⟨_, _, exec_entSample_discarded active, exec_entSample_discarded inactive',
      raise_alike (offered_alike h v w) _⟩

end

theorem feed_alike (xs : List Word) : ∀ (ys : List Word) {s u : State}, SampleAlike s u →
    xs.map (·.getLsbD 0) = ys.map (·.getLsbD 0) →
    ∃ s' u', feed xs s = .next s' ∧ feed ys u = .next u' ∧ SampleAlike s' u' := by
  induction xs with
  | nil =>
    intro ys s u h e
    obtain rfl : ys = [] := by simpa using e.symm
    exact ⟨s, u, rfl, rfl, h⟩
  | cons v xs ih =>
    intro ys s u h e
    cases ys with
    | nil => simp at e
    | cons w ys =>
      obtain ⟨hvw, e⟩ := List.cons.inj e
      obtain ⟨s', u', hs, hu, h'⟩ := exec_entSample_alike h hvw
      rw [feed_cons_of_next hs, feed_cons_of_next hu]
      exact ih ys h' e

/-- Settles O50: both runs start from the same state. -/
theorem seedDependsOnSampleBitZeroOnly : Obligations.SeedDependsOnSampleBitZeroOnly := by
  intro s xs ys same idle
  obtain ⟨u, v, hu, hv, alike⟩ := feed_alike xs ys (.of s.seedingStarted.arg0 s.seedingStarted.last rfl) same
  refine ⟨_, u, v, exec_seedStart_idle idle, hu, hv, ?_⟩
  cases alike
  exact ⟨rfl, rfl, rfl, rfl, rfl, rfl, rfl, rfl⟩

end Sys2Proof.Machine
end

section
/-! The error record: nothing but reset and a write of STATUS with bit 5 set clears it (R169), and what is recorded of the
accesses while `BUSY = 1` (R171). -/

namespace Sys2Proof.Machine

/-! With an error on record. -/

/-- A later error records nothing new (R168). -/
theorem raise_of_err {s : State} (h : s.err = true) (e : CmdError) : s.raise e = s := if_pos h

theorem checkSeeded_of_err {s : State} (h : s.err = true) : s.checkSeeded = s := by
  rw [State.checkSeeded, raise_of_err h, ite_self]

/-- No command clears ERR or ERRCODE: those that write them only raise an error. -/
theorem exec_keeps_error {i : Instr} {s t : State} (hx : exec i s = .next t) (h : s.err = true) :
    t.err = true ∧ t.errcode = s.errcode := by
  cases commandEffect_of_exec hx
  case badRow | seedStartDiscarded | entSampleDiscarded => rw [raise_of_err h]; exact ⟨h, rfl⟩
  case trigger hu => subst hu; simp [checkSeeded_of_err h, h]
  case prngNext => simp [checkSeeded_of_err h, h]
  all_goals simp [State.sampled, h]

/-- Of the other accesses a write of STATUS with bit 5 set alone clears the error. -/
theorem portEffect_keeps_error {write? : Option (BitVec 4 × Word)} {s t : State} (hp : PortEffect write? s t)
    (h : s.err = true) (keep : ¬ ∃ v, write? = some (5, v) ∧ v.getLsbD 5 = true) :
    t.err = true ∧ t.errcode = s.errcode := by
  cases hp
  case errorCleared v hw h5 => exact absurd ⟨v, hw, h5⟩ keep
  case busyWrite => rw [raise_of_err h]; exact ⟨h, rfl⟩
  case discarded w e hi hd => rw [raise_of_err (s := s.accept w) h]; exact ⟨h, rfl⟩
  all_goals exact ⟨h, rfl⟩

theorem step_keeps_error {s t : State} (hs : step s = .next t) (h : s.err = true) (keep : ¬ s.ClearsError)
    (running : ¬ s.Resets) : t.err = true ∧ t.errcode = s.errcode := by
  obtain ⟨hr, -⟩ | hp | ⟨i, -, hx⟩ := step_cases hs
  · exact absurd hr running
  · exact portEffect_keeps_error (s := s.taken) hp h keep
  · exact exec_keeps_error (s := s.taken.accept (encode i)) hx h

/-! What clears it. -/

/-- A step whose action is a register-port write makes that write. -/
theorem step_of_nextWrite {s : State} {index : BitVec 4} {v : Word} (h : s.nextWrite? = some (index, v)) :
    step s = portWrite index v s.taken := by
  obtain ⟨a, ha, hw⟩ := Option.bind_eq_some_iff.mp h
  obtain ⟨rest, hb⟩ := List.head?_eq_some_iff.mp ha
  rw [step_action hb, hostAction_of_asWrite hw, State.taken, hb, List.tail_cons]

theorem step_of_clearsError {s : State} (h : s.ClearsError) : step s = .next s.taken.clearError := by
  obtain ⟨v, hw, h5⟩ := h
  rw [step_of_nextWrite hw, portWrite_status]
  simp [h5, State.clearError]

/-- Settles O8: by what a command and what a step can do, with an error on record and nothing that clears it; the two
accesses that clear it are known exactly. -/
theorem errorIsSticky : Obligations.ErrorIsSticky := by
  refine ⟨fun _ _ _ => exec_keeps_error, fun _ _ => step_keeps_error, fun s t hs cleared => ?_⟩
  obtain hc | hr := cleared
  · rw [step_of_clearsError hc] at hs
    cases hs
    exact ⟨rfl, rfl⟩
  · rw [step_of_resets hr] at hs
    cases hs
    exact ⟨rfl, rfl⟩

/-! While `BUSY = 1`. -/

/-- A write of CMD, ARG0..ARG2 or CTRL is refused while a command is in flight (R171). -/
theorem portWrite_busy {s : State} (h : s.busy = true) {index : BitVec 4}
    (hi : index ∈ ([0, 1, 2, 3, 6] : List (BitVec 4))) (v : Word) : portWrite index v s = .next (s.raise .busy) := by
  simp only [List.mem_cons, List.not_mem_nil, or_false] at hi
  obtain rfl | rfl | rfl | rfl | rfl := hi
  · rw [portWrite_cmd, if_pos h]
  · rw [portWrite_arg0, if_pos h]
  · rw [portWrite_arg1, if_pos h]
  · rw [portWrite_arg2, if_pos h]
  · rw [portWrite_raw, if_pos h]

/-- A read of the register port changes only what the model keeps of the port (R57). -/
theorem portRead_frame (index : BitVec 4) (s : State) :
    portRead index s = { s with rdata := (portRead index s).rdata, draws := (portRead index s).draws } := by
  unfold portRead
  split <;> rfl

/-- Settles O9: a refused write is the record of BUSY, and a read leaves the error fields to themselves. -/
theorem writeWhileBusyIsIgnored : Obligations.WriteWhileBusyIsIgnored := by
  intro s rest
  refine ⟨fun hbusy => ⟨fun index v h hi => ?_, fun v h => ?_, fun index v h hi => ?_⟩, fun index h => ?_⟩
  · have busy : { s with bus := rest }.busy = true := hbusy
    rw [step_write h, portWrite_busy busy hi, raise_eq]
    rfl
  · rw [step_write h, portWrite_status]
  · rw [step_write h, portWrite_ignored hi]
  · refine ⟨_, step_read h, ?_⟩
    rw [portRead_frame]
    exact ⟨rfl, rfl⟩

end Sys2Proof.Machine
end

section
/-! What is safe: the accesses and commands that record no error before seeding (R190), and reset whatever was in flight
(R185, R186). -/

namespace Sys2Proof.Machine

/-! The commands. -/

/-- A legal command that draws from no unseeded generator and is not discarded by the seeder's state leaves the error
fields to themselves. -/
theorem exec_records_no_error {i : Instr} {s t : State} (legal : i.wellFormed = true) (notNext : i ≠ .prngNext)
    (notTrigger : i ≠ .trigger) (starts : i = .seedStart → s.seedState = .idle)
    (samples : i = .entSample → s.seedState = .active) (hx : exec i s = .next t) :
    t.err = s.err ∧ t.errcode = s.errcode := by
  cases commandEffect_of_exec hx
  case trigger => exact absurd rfl notTrigger
  case prngNext => exact absurd rfl notNext
  case badRow illegal => exact absurd legal (by simp [illegal])
  case seedStartDiscarded notIdle => exact absurd (starts rfl) notIdle
  case entSampleDiscarded notActive => exact absurd (samples rfl) notActive
  all_goals simp [State.sampled]

/-! The register port with `BUSY = 0`. -/

/-- A read leaves the error fields to themselves, busy or not. -/
theorem portRead_keeps_error (index : BitVec 4) (s : State) :
    (portRead index s).err = s.err ∧ (portRead index s).errcode = s.errcode := by
  rw [portRead_frame]
  exact ⟨rfl, rfl⟩

/-- Of the idle block's registers a write of CMD alone can record an error. -/
theorem portWrite_records_no_error {s t : State} {index : BitVec 4} {v : Word} (idle : s.busy = false)
    (notCmd : index ≠ 0) (hw : portWrite index v s = .next t) (h : t.err = true) :
    s.err = true ∧ t.errcode = s.errcode := by
  by_cases hi : index ∈ ([0, 1, 2, 3, 5, 6] : List (BitVec 4))
  · simp only [List.mem_cons, List.not_mem_nil, or_false] at hi
    obtain rfl | rfl | rfl | rfl | rfl | rfl := hi
    · exact absurd rfl notCmd
    · rw [portWrite_arg0, idle] at hw; cases hw; exact ⟨h, rfl⟩
    · rw [portWrite_arg1, idle] at hw; cases hw; exact ⟨h, rfl⟩
    · rw [portWrite_arg2, idle] at hw; cases hw; exact ⟨h, rfl⟩
    · rw [portWrite_status] at hw
      cases hw
      obtain ⟨recorded, kept⟩ : s.err = true ∧ v.getLsbD 5 = false := by simpa using h
      exact ⟨recorded, if_neg (Bool.eq_false_iff.mp kept)⟩
    · rw [portWrite_raw, idle] at hw; cases hw; exact ⟨h, rfl⟩
  · rw [portWrite_ignored hi] at hw
    cases hw
    exact ⟨h, rfl⟩

/-- Settles O27: by what a command can do, and by what the port does at each index of an idle block. -/
theorem safeBeforeSeeding : Obligations.SafeBeforeSeeding := by
  refine ⟨fun _ _ _ => exec_records_no_error, fun s t rest idle hs => ⟨fun index h => ?_, fun index v h notCmd => ?_⟩⟩
  · rw [step_read h] at hs
    cases hs
    exact portRead_keeps_error index _
  · rw [step_write h] at hs
    exact portWrite_records_no_error (s := { s with bus := rest }) idle notCmd hs

/-! Reset. -/

/-- Settles O20: the step ends in `resetPin`, whose rows and slots are cleared vectors and whose other fields are the
literals of R185. -/
theorem resetLeavesTheTableOfResetValues : Obligations.ResetLeavesTheTableOfResetValues := by
  intro s rest h
  have resets : s.Resets := by rw [State.Resets, h]; rfl
  have row (r : RowIndex) : (Vector.replicate 24 (0 : Word))[r] = 0 := Vector.getElem_replicate r.isLt
  have word (i : Fin 16) : (Vector.replicate 16 (0 : Word))[i] = 0 := Vector.getElem_replicate i.isLt
  refine ⟨_, step_of_resets resets, fun r => ⟨row r, row r⟩, rfl, rfl, rfl, rfl, rfl, word, ?_⟩
  simp [State.resetWith, State.busy]

end Sys2Proof.Machine
end
